-- ==== Sys2Proof/Word.lean ====
section
/-! DEFINITION. Word.lean: the widths of the block (spec/00_scope.md rule R13). All values are unsigned. -/

namespace Sys2Proof

/-- A byte: 8 bits (R13). -/
abbrev Byte := BitVec 8

/-- The `u32` of rule R13: arithmetic modulo 2^32. -/
abbrev Word := BitVec 32

/-- A 64-bit microsecond time (46_transmitter.md rule R286). -/
abbrev Time := BitVec 64

/-- A 4-bit digital sample (20_memory.md rule R63, one nibble per slice). -/
abbrev Nibble := BitVec 4

end Sys2Proof
end

