-- ==== Sys2Proof/Syntax.lean ====
section
/-! DEFINITION. Syntax.lean: the operations of the block, one constructor of `Instr` per row of
spec/opcode_table.json. Where a rule divides an operation into several atomic steps
(42_dma_capture.md rules R193, R217; 46_transmitter.md rule R291) the constructor carries the step
as an operand; log 1 (DESIGN CHOICE). -/

namespace Sys2Proof

/-- One of the two ping-pong halves (00_scope.md rule R19). -/
inductive Half
  | half0
  | half1
deriving DecidableEq, Repr, Inhabited

/-- The peer of a half, `1 - h` (R19). -/
def Half.other : Half → Half
  | .half0 => .half1
  | .half1 => .half0

/-- The four DMA channels (10_state.md rule R33). -/
inductive Chan
  | d0
  | d1
  | a0
  | a1
deriving DecidableEq, Repr, Inhabited

/-- The two sequencers (00_scope.md rule R12). -/
inductive Sequencer
  | a
  | b
deriving DecidableEq, Repr, Inhabited

/-- The causes of an Overrun (00_scope.md rule R17, 60_exceptions.md rule R331). -/
inductive OverrunCause
  | samplerStall
  | adcOverflow
  | peerIdle
deriving DecidableEq, Repr, Inhabited

/-- The two atomic steps of ARM (42_dma_capture.md rule R193). -/
inductive ArmStep
  | configure
  | start
deriving DecidableEq, Repr, Inhabited

/-- The atomic steps of CHECK_HALF (42_dma_capture.md rules R205, R217), in order: steps 1 and 2,
3a, 3b, 3c (the encoder call, then the count), 3d, 4, 5, and the caller's duty on Ready (R216). -/
inductive CheckStep
  | poll
  | detach
  | restore
  | encode
  | account
  | target
  | test
  | rechain
  | ready
deriving DecidableEq, Repr, Inhabited

/-- Where an encoder stands in its loop over a half: before the seed test, at loop index `k`
(words for ENC_NIBBLE, samples for ENC_BYTE, slices for ENC_INTERLEAVE), or after the loop
(43_nibble_rle.md rule R232, 44_byte_rle.md rule R252, 45_interleave.md rule R272). -/
inductive EncPos
  | start
  | index (k : Nat)
  | finish
deriving DecidableEq, Repr, Inhabited

/-- DISPATCH of a line, and the clearing of the response after its transmission
(40_commands.md rules R134, R135). -/
inductive DispatchStep
  | line (text : List Byte)
  | clear
deriving DecidableEq, Repr, Inhabited

/-- TXFLUSH: the call of Send, and `TX.len <- 0` after it (46_transmitter.md rule R289). -/
inductive FlushStep
  | start
  | done
deriving DecidableEq, Repr, Inhabited

/-- SEND: the test of the connection at entry, and one iteration of its loop
(46_transmitter.md rule R291). -/
inductive SendStep
  | entry
  | loop
deriving DecidableEq, Repr, Inhabited

/-- The steps of the normal wind-down (42_dma_capture.md rule R221). -/
inductive NormalStep
  | completed
  | flush
  | record
  | finish
deriving DecidableEq, Repr, Inhabited

/-- The steps of the aborted wind-down after StopCapture (42_dma_capture.md rule R222). -/
inductive AbortedStep
  | check
  | mark
deriving DecidableEq, Repr, Inhabited

/-- The two sides of the wake primitive: `Wake()` on SEQ_A, `WaitForSignal()` on SEQ_B
(47_scheduler.md rule R320). -/
inductive WakeStep
  | signal
  | wait
deriving DecidableEq, Repr, Inhabited

/-- The operations of the block: one constructor per row of spec/opcode_table.json. -/
inductive Instr
  -- host commands (30_encoding.md rules R90 to R98); `args` is the line after its first character
  /-- RESET: the control character `*` (R132). -/
  | reset
  /-- IDENT: `i` (R137). -/
  | ident (args : List Byte)
  /-- RATE: `R<digits>` (R138). -/
  | rate (args : List Byte)
  /-- LIMIT: `L<digits>` (R139). -/
  | limit (args : List Byte)
  /-- ASCALE: `a<digits>` (R140). -/
  | ascale (args : List Byte)
  /-- FIXED: `F` (R141). -/
  | fixed (args : List Byte)
  /-- CONT: `C` (R142). -/
  | cont (args : List Byte)
  /-- AEN: `A<e><ch>` (R143). -/
  | aen (args : List Byte)
  /-- DEN: `D<e><ch>` (R144). -/
  | den (args : List Byte)
  /-- TRIG: `t` (R145). -/
  | trig (args : List Byte)
  /-- PRETRIG: `p` (R145). -/
  | pretrig (args : List Byte)
  /-- REJECT: a line whose first character is no opcode (R146). -/
  | reject (first : Byte) (args : List Byte)
  /-- ABORT: the control character ABORT_CHAR while a capture is active (R318). -/
  | abort
  /-- EMPTY_LINE: CR or LF with nothing accumulated (R93). -/
  | emptyLine
  -- output byte classes (R99 to R108)
  /-- OUT_TAGGED: `1rrrvvvv` (R100). -/
  | outTagged (run : BitVec 3) (value : Nibble)
  /-- OUT_NRUN: nibble run byte, 48 to 127 (R101). -/
  | outNrun (n : BitVec 7)
  /-- OUT_GROUP: seven bits of a digital sample (R102). -/
  | outGroup (d : BitVec 7)
  /-- OUT_BRUN_DIRECT: byte run byte, 48 to 79 (R103). -/
  | outBrunDirect (n : BitVec 7)
  /-- OUT_BRUN_STEP: byte run byte, 80 to 127 (R103). -/
  | outBrunStep (n : BitVec 7)
  /-- OUT_ANALOG: seven bits of a conversion (R104). -/
  | outAnalog (m : BitVec 7)
  /-- OUT_MARKER: `!!!` (R105). -/
  | outMarker
  /-- OUT_RECORD: `$`, decimal count, `+` (R106). -/
  | outRecord (count : Nat)
  /-- OUT_ACK: `*` (R107). -/
  | outAck
  /-- OUT_IDENT: the identity string (R108). -/
  | outIdent
  -- internal operations
  /-- PARSER_STEP (R131). -/
  | parserStep (c : Byte)
  /-- DISPATCH (R134, R135). -/
  | dispatch (st : DispatchStep)
  /-- PLAN (R170). -/
  | plan
  /-- ARM (R193). -/
  | arm (st : ArmStep)
  /-- DMA_TRIGGER (R197). -/
  | dmaTrigger (c : Chan)
  /-- DMA_XFER (R198). -/
  | dmaXfer (c : Chan)
  /-- DMA_COMPLETE (R199). -/
  | dmaComplete (c : Chan)
  /-- CHECK_HALF (R205). -/
  | checkHalf (st : CheckStep) (h : Half)
  /-- OVERRUN (R213, R336). -/
  | overrun (cause : OverrunCause)
  /-- ENC_NIBBLE (R232). -/
  | encNibble (pos : EncPos) (h : Half)
  /-- ENC_BYTE1: sample width 1 (R252). -/
  | encByte1 (pos : EncPos) (h : Half)
  /-- ENC_BYTE2: sample width 2 (R252). -/
  | encByte2 (pos : EncPos) (h : Half)
  /-- ENC_BYTE4: sample width 4 (R252). -/
  | encByte4 (pos : EncPos) (h : Half)
  /-- ENC_INTERLEAVE (R272). -/
  | encInterleave (pos : EncPos) (h : Half)
  /-- EMIT (R288). -/
  | emit (b : Byte)
  /-- TXFLUSH (R289). -/
  | txflush (st : FlushStep)
  /-- THRESHOLD_FLUSH (R290). -/
  | thresholdFlush
  /-- SEND (R291): `data` is what is still to be handed over. -/
  | send (who : Sequencer) (st : SendStep) (data : List Byte) (counted : Bool)
  /-- STOP: StopCapture (R220). -/
  | stop
  /-- WIND_DOWN_NORMAL (R221). -/
  | windDownNormal (st : NormalStep)
  /-- WIND_DOWN_ABORTED (R222). -/
  | windDownAborted (st : AbortedStep)
  /-- WAKE and WaitForSignal (R320). -/
  | wake (st : WakeStep)
  /-- ROUTE (R317). -/
  | route (c : Byte)
  /-- SOFT_RESET (R362). -/
  | softReset
deriving DecidableEq, Repr, Inhabited

end Sys2Proof
end

