-- ==== Sys2Proof/Config.lean ====
section
/-! DEFINITION. Config.lean: the constants of spec/00_scope.md rule R9, the parameters of rule R10
as plain data over which claims quantify (log 3), and the environment's inputs (10_state.md rule
R41; log 2). -/

namespace Sys2Proof

namespace Config

/-- RESET_CHAR, `*` (R9). -/
def resetChar : Byte := 0x2A
/-- CR, a terminator (30_encoding.md rule R90). -/
def charCR : Byte := 0x0D
/-- LF, a terminator (30_encoding.md rule R90). -/
def charLF : Byte := 0x0A
/-- RATE_MIN (R9). -/
def rateMin : Nat := 5000
/-- RATE_MAX (R9). -/
def rateMax : Nat := 120000016
/-- RATE_DEFAULT (R9). -/
def rateDefault : Word := 5000
/-- COUNT_DEFAULT (R9). -/
def countDefault : Word := 10
/-- COUNT_MIN (R9). -/
def countMin : Word := 16
/-- NUM_A_CHAN (R9). -/
def numAChan : Nat := 3
/-- NUM_D_CHAN (R9). -/
def numDChan : Nat := 21
/-- NIB_RUN_MAX (R9). -/
def nibRunMax : Nat := 640
/-- BYTE_RUN_DIRECT_MAX (R9). -/
def byteRunDirectMax : Nat := 32
/-- BYTE_RUN_MAX (R9). -/
def byteRunMax : Nat := 1568
/-- The largest `chunk_bytes` at CHUNK_MULT = 1 (41_buffer_planner.md rule R178). -/
def largestChunk : Nat := 28

end Config

/-- The named arguments of the model: spec/00_scope.md rule R10, and the configurable transport
timeout of rule R9. No operation changes them. -/
structure Params where
  /-- ARENA_CAPACITY, bytes. -/
  arenaCapacity : Nat
  /-- CHUNK_MULT. -/
  chunkMult : Nat
  /-- TXBUF_CAPACITY, bytes. -/
  txbufCapacity : Nat
  /-- TX_FLUSH_THRESH, bytes. -/
  txFlushThresh : Nat
  /-- CMDBUF_CAPACITY, characters. -/
  cmdbufCapacity : Nat
  /-- RSP_CAPACITY, characters. -/
  rspCapacity : Nat
  /-- ABORT_CHAR. -/
  abortChar : Byte
  /-- PROTOCOL_VERSION. -/
  protocolVersion : List Byte
  /-- ANALOG_SCALE_STR. -/
  analogScaleStr : List Byte
  /-- ABORT_MARKER_PERIOD_US. -/
  abortMarkerPeriodUs : Nat
  /-- WAKE_PERIOD, iterations of SEQ_A's loop. -/
  wakePeriod : Nat
  /-- SAMPLER_FIFO_DEPTH, words. -/
  samplerFifoDepth : Nat
  /-- ADC_FIFO_DEPTH, bytes. -/
  adcFifoDepth : Nat
  /-- TX_TIMEOUT_US (R9, "configurable timeout (default 500 ms)"). -/
  txTimeoutUs : Nat
  /-- Whether the two tests of `now_us` are made (46_transmitter.md rule R291, 42_dma_capture.md rule
  R222), or replaced by a free choice, as in the spec's untimed model (46_transmitter.md rule R293,
  70_reset_and_hazards.md rule R381); log 7. -/
  timed : Bool
deriving DecidableEq, Repr, Inhabited

/-- The defaults of rule R10, last column, where it gives one; elsewhere DESIGN CHOICE (log 3:
RSP_CAPACITY is the spec's 32; the marker period and the FIFO depths have no default in the spec;
ABORT_CHAR, PROTOCOL_VERSION and ANALOG_SCALE_STR are the spec's, from general knowledge). -/
def Config.defaultParams : Params where
  arenaCapacity := 4096
  chunkMult := 1
  txbufCapacity := 64
  txFlushThresh := 32
  cmdbufCapacity := 20
  rspCapacity := 32
  abortChar := 0x2B
  protocolVersion := [0x30, 0x32]
  analogScaleStr := [0x30, 0x2E, 0x30, 0x32, 0x35, 0x37, 0x78, 0x30]
  abortMarkerPeriodUs := 500000
  wakePeriod := 1
  samplerFifoDepth := 4
  adcFifoDepth := 4
  txTimeoutUs := 500000
  timed := true

/-- The agents that take steps (00_scope.md rule R12). -/
inductive Agent
  | seqA
  | seqB
  | dma (c : Chan)
  | sampler
  | adc
  | host
deriving DecidableEq, Repr, Inhabited

/-- The environment's inputs to one step (10_state.md rule R41, 93_implementation_defined.md U18,
U19): which agent moves, and what it sees. Every field is free (log 2). -/
structure Env where
  /-- The agent that moves. -/
  agent : Agent
  /-- How far `now_us` has advanced since the last step (46_transmitter.md rule R286). -/
  elapsedUs : Nat
  /-- `PORT.connected` where a step reads it first (R291, entry). -/
  connected : Bool
  /-- `PORT.connected` where an iteration of Send's loop reads it (R291). -/
  connectedLater : Bool
  /-- `PORT.write_available` where an iteration of Send's loop reads it (R291). -/
  writeAvailable : Nat
  /-- `PORT.write_available` at the call of `PORT.write` (R285). -/
  availableAtCall : Nat
  /-- How many bytes `PORT.write` would accept beyond its assumption of R285. -/
  accepted : Nat
  /-- In the untimed model, whether an iteration of Send's loop without room gives up
  (46_transmitter.md rule R293). -/
  giveUp : Bool
  /-- In the untimed model, whether an iteration in `Aborted` sends a marker (42_dma_capture.md rule
  R222). -/
  sendMarker : Bool
  /-- The word a step of the sampler delivers (42_dma_capture.md rule R203). -/
  sample : Word
  /-- The byte a step of the ADC delivers (R203). -/
  conversion : Byte
  /-- The character a step of the host sends (47_scheduler.md rule R316). -/
  hostChar : Byte
deriving DecidableEq, Repr, Inhabited

/-- The environment, where no script stands in the state: a constant without a body, so that no
proof can see a value of it (log 2). -/
opaque Config.environment : Nat → Env

/-- What a byte of the arena reads as before anything has written it: any value
(93_implementation_defined.md U1). A free value: a constant without a body (log 4). -/
opaque Config.arenaByte : Nat → Byte

/-- A character of a text the block sends: ASCII, no CR and no LF (R10; 30_encoding.md rule R107). -/
def isTextChar (c : Byte) : Bool :=
  decide (c.toNat < 0x80) && c != Config.charCR && c != Config.charLF

/-- The form `<scale>x<offset>` of ANALOG_SCALE_STR (R10): an `x` with something on either side of it;
what the two parts may be is not stated (log 28). -/
def isScaleString (s : List Byte) : Bool := (s.drop 1).dropLast.contains 0x78

/-- The constraint of rule R10 on ARENA_CAPACITY, with CHUNK_MULT ≥ 1: what 60_exceptions.md rule
R335 checks at boot. -/
def Params.arenaOk (p : Params) : Bool :=
  decide (1 ≤ p.chunkMult) && decide (2 * Config.largestChunk * p.chunkMult ≤ p.arenaCapacity)

/-- The length of the identity string (30_encoding.md rule R108): 15 characters and the version. -/
def Params.identLength (p : Params) : Nat := 15 + p.protocolVersion.length

/-- Every constraint of rule R10, and what follows from register widths and bounds (DEDUCED, log 28):
arena offsets are 32-bit registers (10_state.md rule R25), and the response string holds the analog
scale string (R29, R140). -/
def Params.wf (p : Params) : Bool :=
  p.arenaOk
  && decide (p.arenaCapacity < 2 ^ 32)
  && decide (16 ≤ p.txbufCapacity)
  && decide (1 ≤ p.txFlushThresh) && decide (p.txFlushThresh ≤ p.txbufCapacity)
  && decide (11 ≤ p.cmdbufCapacity)
  && decide (p.identLength ≤ p.rspCapacity) && decide (p.analogScaleStr.length ≤ p.rspCapacity)
  && (p.abortChar != Config.resetChar) && (p.abortChar != Config.charCR)
  && (p.abortChar != Config.charLF)
  && p.protocolVersion.all isTextChar
  && p.analogScaleStr.all isTextChar && isScaleString p.analogScaleStr
  && decide (1 ≤ p.abortMarkerPeriodUs) && decide (1 ≤ p.wakePeriod)
  && decide (1 ≤ p.samplerFifoDepth) && decide (1 ≤ p.adcFifoDepth)

end Sys2Proof
end

