-- ==== Sys2Proof/WellFormed.lean ====
section
/-! DEFINITION. WellFormed.lean: which operands of an operation its encoding admits. -/

namespace Sys2Proof

/-- A character that can stand inside a command line: no terminator and no RESET_CHAR
(30_encoding.md rules R90, R91). -/
def isLineChar (c : Byte) : Bool :=
  c != Config.charCR && c != Config.charLF && c != Config.resetChar

/-- The first characters of the command lines of 30_encoding.md rule R96, in the table's order:
i R L a F C A D t p. -/
def opcodeLetters : List Byte :=
  [0x69, 0x52, 0x4C, 0x61, 0x46, 0x43, 0x41, 0x44, 0x74, 0x70]

/-- An argument string of a line that fits the command buffer (R90: "at most CMDBUF_CAPACITY
characters"). -/
def argsOk (p : Params) (args : List Byte) : Bool :=
  args.all isLineChar && decide (args.length + 1 ≤ p.cmdbufCapacity)

/-- The operands an operation admits, under the parameters `p`. -/
def Instr.wf (p : Params) : Instr → Bool
  | .reset => true
  | .ident args => argsOk p args
  | .rate args => argsOk p args
  | .limit args => argsOk p args
  | .ascale args => argsOk p args
  | .fixed args => argsOk p args
  | .cont args => argsOk p args
  | .aen args => argsOk p args
  | .den args => argsOk p args
  | .trig args => argsOk p args
  | .pretrig args => argsOk p args
  | .reject first args =>
    isLineChar first && !opcodeLetters.contains first && argsOk p args
  | .abort => true
  | .emptyLine => true
  | .outTagged _ _ => true
  | .outNrun n => decide (48 ≤ n.toNat)
  | .outGroup _ => true
  | .outBrunDirect n => decide (48 ≤ n.toNat) && decide (n.toNat ≤ 79)
  | .outBrunStep n => decide (80 ≤ n.toNat)
  | .outAnalog _ => true
  | .outMarker => true
  | .outRecord _ => true
  | .outAck => true
  | .outIdent => true
  | .parserStep c => c != Config.resetChar
  | .dispatch (.line text) => text != []
  | .dispatch .clear => true
  | .plan => true
  | .arm _ => true
  | .dmaTrigger _ => true
  | .dmaXfer _ => true
  | .dmaComplete _ => true
  | .checkHalf _ _ => true
  | .overrun _ => true
  | .encNibble _ _ => true
  | .encByte1 _ _ => true
  | .encByte2 _ _ => true
  | .encByte4 _ _ => true
  | .encInterleave _ _ => true
  | .emit b => decide (0x30 ≤ b.toNat)
  | .txflush _ => true
  | .thresholdFlush => true
  | .send _ _ _ _ => true
  | .stop => true
  | .windDownNormal _ => true
  | .windDownAborted _ => true
  | .wake _ => true
  | .route _ => true
  | .softReset => true

end Sys2Proof
end

