-- ==== Sys2Proof/Decode.lean ====
section
/-! DEFINITION. Decode.lean: the two encodings of spec/30_encoding.md. First the command side (host to
block, rules R90 to R98), then the output alphabet (block to host, rules R99 to R109), then the
encoder, the reference decoders of rule R110, and the decoder of one word of
spec/opcode_table.json. Decoding is total and rejects by name (`DecodeError`). -/

namespace Sys2Proof

/-! ## Decimal numbers -/

/-- An ASCII decimal digit, 0x30 to 0x39 (R94). -/
def isDigit (c : Byte) : Bool := decide (0x30 ≤ c.toNat) && decide (c.toNat ≤ 0x39)

/-- The value of a digit. -/
def digitValue (c : Byte) : Nat := c.toNat - 0x30

/-- `ParseDec` (R94): one or more digits, any length, most significant first; anything else is
`none`. -/
def parseDec (s : List Byte) : Option Nat :=
  if s != [] && s.all isDigit then some (s.foldl (fun v c => v * 10 + digitValue c) 0) else none

/-- The digit of a number below ten. -/
def digitOf (n : Nat) : Byte := BitVec.ofNat 8 (0x30 + n)

/-- The digits of `n` before `acc`; `fuel` bounds their number. -/
def decDigits : Nat → Nat → List Byte → List Byte
  | 0, _, acc => acc
  | fuel + 1, n, acc =>
    if n < 10 then digitOf n :: acc else decDigits fuel (n / 10) (digitOf (n % 10) :: acc)

/-- `dec(n)`: the shortest decimal string of `n` (00_scope.md rule R13). -/
def dec (n : Nat) : List Byte := decDigits (n + 1) n []

/-- `fmt2(n)`: exactly two digits (00_scope.md rule R13). -/
def fmt2 (n : Nat) : List Byte := [digitOf (n / 10 % 10), digitOf (n % 10)]

/-- The identity string `SRPICO,A<NN>1D<NN>,<ver>` (R108). -/
def identString (p : Params) : List Byte :=
  [0x53, 0x52, 0x50, 0x49, 0x43, 0x4F, 0x2C, 0x41] ++ fmt2 Config.numAChan ++ [0x31, 0x44]
    ++ fmt2 Config.numDChan ++ [0x2C] ++ p.protocolVersion

/-! ## The command side -/

/-- Why a byte sequence is no instruction. -/
inductive DecodeError
  /-- Nothing to decode. -/
  | empty
  /-- A command line without its terminator (R90). -/
  | unterminated
  /-- A command line longer than CMDBUF_CAPACITY: the parser empties its buffer (40_commands.md
  rule R133). -/
  | lineTooLong
  /-- A character that is discarded because a capture is active (47_scheduler.md rule R317). -/
  | discarded (c : Byte)
  /-- An output byte below 0x30 that begins no record (R109). -/
  | reserved (b : Byte)
  /-- An output byte that the variant in force never sends (R99). -/
  | neverSent (b : Byte)
  /-- A `$` that no well-formed record follows (R106). -/
  | badRecord
  /-- Response text other than the identity string (R107). -/
  | otherResponse
deriving DecidableEq, Repr

/-- The command selected by the first character of a line (R92, R96); case matters. -/
def decodeLine (op : Byte) (args : List Byte) : Instr :=
  if op = 0x69 then .ident args
  else if op = 0x52 then .rate args
  else if op = 0x4C then .limit args
  else if op = 0x61 then .ascale args
  else if op = 0x46 then .fixed args
  else if op = 0x43 then .cont args
  else if op = 0x41 then .aen args
  else if op = 0x44 then .den args
  else if op = 0x74 then .trig args
  else if op = 0x70 then .pretrig args
  else .reject op args

/-- A terminator: CR or LF (R90). -/
def isTerminator (c : Byte) : Bool := c == Config.charCR || c == Config.charLF

/-- The first instruction of a character stream received while no capture is active, `acc` being the
characters accumulated before it, with the rest of the stream (R90 to R93). -/
def decodeAccumulated (p : Params) (acc : List Byte) :
    List Byte → Except DecodeError (Instr × List Byte)
  | [] => .error (if acc = [] then .empty else .unterminated)
  | c :: rest =>
    if c = Config.resetChar then .ok (.reset, rest)
    else if isTerminator c then
      match acc with
      | [] => .ok (.emptyLine, rest)
      | op :: args => .ok (decodeLine op args, rest)
    else if acc.length = p.cmdbufCapacity then .error .lineTooLong
    else decodeAccumulated p (acc ++ [c]) rest

/-- The first instruction of a character stream received while no capture is active. -/
def decodeCommand (p : Params) (bytes : List Byte) : Except DecodeError (Instr × List Byte) :=
  decodeAccumulated p [] bytes

/-- The first instruction of a character stream received while a capture is active: only the two
control characters are instructions (R91; 47_scheduler.md rule R317). -/
def decodeControl (p : Params) : List Byte → Except DecodeError (Instr × List Byte)
  | [] => .error .empty
  | c :: rest =>
    if c = Config.resetChar then .ok (.reset, rest)
    else if c = p.abortChar then .ok (.abort, rest)
    else .error (.discarded c)

/-! ## The output alphabet -/

/-- The tagged byte `0x80 | value | (run << 4)` (R100). -/
def taggedByte (run : BitVec 3) (value : Nibble) : Byte :=
  0x80 ||| value.setWidth 8 ||| (run.setWidth 8 <<< 4)

/-- A byte with bit 7 set and seven data bits (R102, R104). -/
def dataByte (d : BitVec 7) : Byte := 0x80 ||| d.setWidth 8

/-- A run byte: bit 7 clear (R101, R103). -/
def runByte (n : BitVec 7) : Byte := n.setWidth 8

/-- The abort marker `!!!` (R105). -/
def abortMarker : List Byte := [0x21, 0x21, 0x21]

/-- The completion record `$`, `dec(count)`, `+` (R106). -/
def completionRecord (count : Nat) : List Byte := 0x24 :: (dec count ++ [0x2B])

/-- The generic acknowledgement `*` (R107). -/
def ackBytes : List Byte := [0x2A]

/-- What tells the classes of output bytes apart (R99): the variant, in an INTERLEAVE capture the
place in the slice (R104), or that no capture is active. -/
inductive OutCtx
  | nibble
  | byteRle
  | groupPlace
  | analogPlace
  | noCapture
deriving DecidableEq, Repr

/-- Bytes 0x80 to 0xFF (R99, first row). -/
def decodeHigh (ctx : OutCtx) (b : Byte) (rest : List Byte) :
    Except DecodeError (Instr × List Byte) :=
  match ctx with
  | .nibble => .ok (.outTagged ((b >>> 4).setWidth 3) (b.setWidth 4), rest)
  | .byteRle => .ok (.outGroup (b.setWidth 7), rest)
  | .groupPlace => .ok (.outGroup (b.setWidth 7), rest)
  | .analogPlace => .ok (.outAnalog (b.setWidth 7), rest)
  | .noCapture => .error (.neverSent b)

/-- Bytes 0x30 to 0x7F (R99, second row). -/
def decodeMiddle (p : Params) (ctx : OutCtx) (b : Byte) (rest : List Byte) :
    Except DecodeError (Instr × List Byte) :=
  match ctx with
  | .nibble => .ok (.outNrun (b.setWidth 7), rest)
  | .byteRle =>
    if b.toNat < 80 then .ok (.outBrunDirect (b.setWidth 7), rest)
    else .ok (.outBrunStep (b.setWidth 7), rest)
  | .groupPlace => .error (.neverSent b)
  | .analogPlace => .error (.neverSent b)
  | .noCapture =>
    if (identString p).isPrefixOf (b :: rest) then
      .ok (.outIdent, (b :: rest).drop (identString p).length)
    else .error .otherResponse

/-- The record that follows a `$` (R106): digits without leading zeros, then `+`. -/
def decodeRecord (rest : List Byte) : Except DecodeError (Instr × List Byte) :=
  match rest.dropWhile isDigit, parseDec (rest.takeWhile isDigit) with
  | c :: after, some n =>
    if c = 0x2B ∧ dec n = rest.takeWhile isDigit then .ok (.outRecord n, after)
    else .error .badRecord
  | _, _ => .error .badRecord

/-- Bytes 0x00 to 0x2F (R99, third row; R109). With no capture active `*` is the acknowledgement, and
`,` and `.` are response text, which only the identity string makes an instruction. -/
def decodeReserved (ctx : OutCtx) (b : Byte) (rest : List Byte) :
    Except DecodeError (Instr × List Byte) :=
  if ctx = .noCapture then
    if b = 0x2A then .ok (.outAck, rest)
    else if b = 0x2C ∨ b = 0x2E then .error .otherResponse
    else .error (.reserved b)
  else if b = 0x21 then
    if [0x21, 0x21].isPrefixOf rest then .ok (.outMarker, rest.drop 2) else .error (.reserved b)
  else if b = 0x24 then decodeRecord rest
  else .error (.reserved b)

/-- The first element of a stream of output bytes, with the rest of the stream (R99). -/
def decodeOut (p : Params) (ctx : OutCtx) : List Byte → Except DecodeError (Instr × List Byte)
  | [] => .error .empty
  | b :: rest =>
    if 0x80 ≤ b.toNat then decodeHigh ctx b rest
    else if 0x30 ≤ b.toNat then decodeMiddle p ctx b rest
    else decodeReserved ctx b rest

/-! ## The encoder -/

/-- A command line: opcode character, argument string, CR (R90, R98). -/
def encodeLine (op : Byte) (args : List Byte) : List Byte := op :: (args ++ [Config.charCR])

/-- The bytes of an operation that has an encoding; an internal operation has none
(spec/30_encoding.md, opening) and gives no bytes. -/
def encode (p : Params) : Instr → List Byte
  | .reset => [Config.resetChar]
  | .ident args => encodeLine 0x69 args
  | .rate args => encodeLine 0x52 args
  | .limit args => encodeLine 0x4C args
  | .ascale args => encodeLine 0x61 args
  | .fixed args => encodeLine 0x46 args
  | .cont args => encodeLine 0x43 args
  | .aen args => encodeLine 0x41 args
  | .den args => encodeLine 0x44 args
  | .trig args => encodeLine 0x74 args
  | .pretrig args => encodeLine 0x70 args
  | .reject first args => encodeLine first args
  | .abort => [p.abortChar]
  | .emptyLine => [Config.charCR]
  | .outTagged run value => [taggedByte run value]
  | .outNrun n => [runByte n]
  | .outGroup d => [dataByte d]
  | .outBrunDirect n => [runByte n]
  | .outBrunStep n => [runByte n]
  | .outAnalog m => [dataByte m]
  | .outMarker => abortMarker
  | .outRecord count => completionRecord count
  | .outAck => ackBytes
  | .outIdent => identString p
  | .parserStep _ => []
  | .dispatch _ => []
  | .plan => []
  | .arm _ => []
  | .dmaTrigger _ => []
  | .dmaXfer _ => []
  | .dmaComplete _ => []
  | .checkHalf _ _ => []
  | .overrun _ => []
  | .encNibble _ _ => []
  | .encByte1 _ _ => []
  | .encByte2 _ _ => []
  | .encByte4 _ _ => []
  | .encInterleave _ _ => []
  | .emit _ => []
  | .txflush _ => []
  | .thresholdFlush => []
  | .send _ _ _ _ => []
  | .stop => []
  | .windDownNormal _ => []
  | .windDownAborted _ => []
  | .wake _ => []
  | .route _ => []
  | .softReset => []

/-! ## The reference decoders (R110) -/

/-- `[prev] * n`; repeating needs a previous value unless `n = 0`, and a stream without it decodes to
nothing (log 31). -/
def repeatPrev {α : Type} : Option α → Nat → Option (List α)
  | _, 0 => some []
  | some v, n + 1 => some (List.replicate (n + 1) v)
  | none, _ + 1 => none

/-- `DecodeNibble` (R110), continued from the previous value `prev`. -/
def decodeNibbleFrom : Option Nibble → List Byte → Option (List Nibble)
  | _, [] => some []
  | prev, b :: bs =>
    if 0x80 ≤ b.toNat then
      let v : Nibble := b.setWidth 4
      (repeatPrev prev ((b >>> 4) &&& 7).toNat).bind fun run =>
        (decodeNibbleFrom (some v) bs).map fun out => run ++ v :: out
    else if 0x30 ≤ b.toNat then
      (repeatPrev prev ((b.toNat - 47) * 8)).bind fun run =>
        (decodeNibbleFrom prev bs).map fun out => run ++ out
    else some []

/-- `DecodeNibble` (R110). -/
def decodeNibble (bytes : List Byte) : Option (List Nibble) := decodeNibbleFrom none bytes

/-- `RunOf` (R110). -/
def runOf (b : Byte) : Nat := if b.toNat ≤ 0x4F then b.toNat - 47 else (b.toNat - 78) * 32

/-- The value of a sequence of group bytes, least significant group first (R102). -/
def groupValue (bytes : List Byte) : Nat :=
  bytes.foldr (fun b acc => b.toNat % 128 + 128 * acc) 0

/-- A byte that can carry samples: one below 0x30 stops the reference decoders
(93_implementation_defined.md U4). -/
def isInBand (b : Byte) : Bool := decide (0x30 ≤ b.toNat)

/-- `DecodeByte` (R110) for `t` group bytes a sample, continued from the previous value `prev`;
`skip` counts the bytes of the current sample that have been read already. A byte below 0x30 stops it,
also inside the group bytes of a sample, which is then left out (93_implementation_defined.md U4; log 31).
DESIGN CHOICE (log 31): bytes that end inside the group bytes of a sample make the whole answer `none`;
the pseudocode indexes past their end there. -/
def decodeByteFrom (t : Nat) : Nat → Option Nat → List Byte → Option (List Nat)
  | _, _, [] => some []
  | skip + 1, prev, _ :: bs => decodeByteFrom t skip prev bs
  | 0, prev, b :: bs =>
    if 0x80 ≤ b.toNat then
      if ((b :: bs).take t).any (fun g => !isInBand g) then some []
      else if bs.length + 1 < t then none
      else
        let v := groupValue ((b :: bs).take t)
        (decodeByteFrom t (t - 1) (some v) bs).map fun out => v :: out
    else if 0x30 ≤ b.toNat then
      (repeatPrev prev (runOf b)).bind fun run =>
        (decodeByteFrom t 0 prev bs).map fun out => run ++ out
    else some []

/-- `DecodeByte` (R110). -/
def decodeByte (bytes : List Byte) (t : Nat) : Option (List Nat) := decodeByteFrom t 0 none bytes

/-- The first `slices` slices of an INTERLEAVE stream, each `t` group bytes and `n` analog bytes. -/
def decodeSlices (t n : Nat) : Nat → List Byte → List (Nat × List Nat)
  | 0, _ => []
  | slices + 1, bytes =>
    (groupValue (bytes.take t), ((bytes.drop t).take n).map fun b => (b.toNat % 128) * 2)
      :: decodeSlices t n slices (bytes.drop (t + n))

/-- `DecodeInterleave` (R110): it stops at the first byte below 0x30 (93_implementation_defined.md U4).
DESIGN CHOICE (log 31): the bytes before the stop that fill no whole slice are dropped; the spec does
not say what becomes of them. -/
def decodeInterleave (bytes : List Byte) (t n : Nat) : List (Nat × List Nat) :=
  let inBand := bytes.takeWhile isInBand
  decodeSlices t n (inBand.length / (t + n)) inBand

/-! ## One word of spec/opcode_table.json -/

/-- The bytes of a word of `nbits` bits, the least significant byte first in time. -/
def wordBytes (nbits w : Nat) : List Byte :=
  (List.range (nbits / 8)).map fun i => BitVec.ofNat 8 (w >>> (8 * i))

/-- The reading of a byte sequence as one element of the output alphabet: of a NIBBLE capture, else
of the responses. -/
def decodeOutWhole (p : Params) (bytes : List Byte) : Option Instr :=
  match decodeOut p .nibble bytes with
  | .ok (i, []) => some i
  | _ =>
    match decodeOut p .noCapture bytes with
    | .ok (i, []) => some i
    | _ => none

/-- Whether an instruction is the REJECT of a line. -/
def Instr.isReject : Instr → Bool
  | .reject _ _ => true
  | _ => false

/-- The reading of the bytes of a table word: the command side first, as a control character or as a
line whose terminator the table gives no bits; what would be a REJECT there is read as an output
byte if it is one. The two alphabets share byte values and only the direction tells them apart; log 15
(DESIGN CHOICE). -/
def decodeTableBytes (p : Params) (bytes : List Byte) : Option Instr :=
  if bytes = [] then none
  else
    match decodeCommand p (bytes ++ [Config.charCR]) with
    | .error _ => none
    | .ok (i, rest) =>
      if rest.length ≤ 1 ∧ rest ≠ [Config.charLF] then
        if i.isReject then some ((decodeOutWhole p bytes).getD i) else some i
      else none

/-- The instruction the decoder reads from an instruction whose `nbits` bits are `w`, numbered as
spec/opcode_table.json numbers them, under the default parameters. -/
def decodeTableWord (nbits w : Nat) : Option Instr :=
  if nbits % 8 = 0 then decodeTableBytes Config.defaultParams (wordBytes nbits w) else none

end Sys2Proof
end

