-- ==== Sys2Proof/Machine/State.lean ====
section
/-! DEFINITION. Machine/State.lean: every piece of state that spec/10_state.md gives the block, as plain
data, with the model's own fields (parameters, environment inputs, work lists of the sequencers), and
the state after power-on reset (10_state.md rule R42). -/

namespace Sys2Proof.Machine

/-- Why the machine stops. -/
inductive Fault
  /-- An arena access outside `0 ≤ addr`, `addr + n ≤ ARENA_CAPACITY` (00_scope.md rule R15, 20_memory.md
  rule R65). Raised by MemRead and MemWrite. Safe: the spec asks for a fault (R343). -/
  | arenaRange (addr : Nat)
  /-- A misaligned arena access (20_memory.md rule R65). Raised by MemRead and MemWrite. Safe (R343). -/
  | arenaAlign (addr : Nat)
  /-- `DmaConfigure` of a busy channel (42_dma_capture.md rule R191; U21). Raised by ARM. Safe (R343). -/
  | dmaConfigureBusy (c : Chan)
  /-- A write of `write_addr` of a busy channel (U21). Raised by CHECK_HALF step 3b. Safe (R343). -/
  | dmaAddrBusy (c : Chan)
  /-- `Trigger` with `reload = 0` (R343). Raised by DMA_TRIGGER, DMA_COMPLETE, DMA_XFER, ARM. Safe. -/
  | dmaReloadZero (c : Chan)
  /-- `Emit` of a byte below 0x30 by an encoder (R343; U3). Raised by EMIT and the output byte
  operations. Safe. -/
  | emitReserved (b : Byte)
  /-- ARENA_FATAL: the parameters violate the constraint on ARENA_CAPACITY, and the block is stuck in
  reset (60_exceptions.md rule R335). Raised by step. Safe. -/
  | arenaFatal
deriving DecidableEq, Repr

/-- Why an operation is refused. -/
inductive Refusal
  /-- No meaning yet for the instruction of this mnemonic. Raised by exec only. Safe. -/
  | notModelled (mnemonic : String)
  /-- PLAN under an ARENA_CAPACITY or CHUNK_MULT for which it has no meaning
  (41_buffer_planner.md rule R178: "a model refuses the parameter choice"). Safe. -/
  | parameterChoice
deriving DecidableEq, Repr

/-- An encoder variant, or NONE (10_state.md rule R26). -/
inductive Variant
  | none
  | nibble
  | byte1
  | byte2
  | byte4
  | interleave
deriving DecidableEq, Repr, Inhabited

/-- `ctrl_state` (10_state.md rule R31, 42_dma_capture.md rule R190). -/
inductive CtrlState
  | idle
  | armed
  | capturing
  | completed
  | aborted
deriving DecidableEq, Repr, Inhabited

/-- `digital_nibbles_per_slice`: one of 0, 1, 2, 4, 8 (10_state.md rule R24; log 25). -/
inductive Dnps
  | n0
  | n1
  | n2
  | n4
  | n8
deriving DecidableEq, Repr, Inhabited

/-- `DMA[c].unit`: 1 or 4 bytes per transfer (10_state.md rule R33; log 25). -/
inductive XferUnit
  | byte
  | word
deriving DecidableEq, Repr, Inhabited

/-- A bounded byte array with a length (10_state.md rules R29, R37): `live` is the part below the
length, `stale` the rest of the array, which no rule reads (93_implementation_defined.md U2). -/
structure ByteBuf where
  live : List Byte
  stale : List Byte
deriving DecidableEq, Repr, Inhabited

/-- The Session (10_state.md rules R20 to R30). -/
structure Session where
  sampleRate : Word
  numSamples : Word
  analogMask : BitVec 3
  digitalMask : BitVec 21
  analogCount : BitVec 2
  digitalCount : BitVec 5
  dnps : Dnps
  txBytesPerSample : BitVec 2
  digHalf0Off : Word
  digHalf1Off : Word
  anaHalf0Off : Word
  anaHalf1Off : Word
  digHalfSize : Word
  anaHalfSize : Word
  samplesPerHalf : Word
  maskOverrunAsBenign : Bool
  variant : Variant
  started : Bool
  sending : Bool
  continuous : Bool
  aborted : Bool
  samplesSentCount : Nat
  bytesSentCount : Nat
  cmdBuf : ByteBuf
  rsp : List Byte
  armReqSeq : Word
  armAckSeq : Word
deriving DecidableEq, Repr, Inhabited

/-- The registers of one DMA channel (10_state.md rule R33). -/
structure DmaChan where
  busy : Bool
  writeAddr : Word
  chainTo : Chan
  count : Word
  reload : Word
  xfer : XferUnit
deriving DecidableEq, Repr, Inhabited

/-- The four channels (10_state.md rule R33). -/
structure DmaBank where
  d0 : DmaChan
  d1 : DmaChan
  a0 : DmaChan
  a1 : DmaChan
deriving DecidableEq, Repr, Inhabited

/-- The sampler as the block sees it (10_state.md rule R35). -/
structure Sampler where
  running : Bool
  rxStall : Bool
  fifo : List Word
deriving DecidableEq, Repr, Inhabited

/-- The ADC as the block sees it (10_state.md rule R35). -/
structure Adc where
  running : Bool
  fifoOverflow : Bool
  fifo : List Byte
deriving DecidableEq, Repr, Inhabited

/-- The encoder registers (10_state.md rule R36). -/
structure Enc where
  seeded : Bool
  runCnt : Word
  nibLast : Nibble
  wordLast : Word
  valLast : Word
deriving DecidableEq, Repr, Inhabited

/-- The transmitter registers (10_state.md rule R37). -/
structure Tx where
  buf : ByteBuf
  lastWriteUs : Time
  nextMarkerUs : Time
deriving DecidableEq, Repr, Inhabited

/-- The transport: characters received and not yet taken (47_scheduler.md rule R316), and the wire
stream, every byte it has accepted (00_scope.md rule R16; log 10). -/
structure Port where
  rx : List Byte
  wire : List Byte
deriving DecidableEq, Repr, Inhabited

/-- Where a sequencer stands in its loop (10_state.md rule R42): at the top, or past the part before the
`case` (SEQ_A: counting and waking, 47_scheduler.md rule R312) or before the poll of PORT.rx (SEQ_B:
WaitForSignal, rule R316). -/
inductive LoopPos
  | top
  | body
deriving DecidableEq, Repr, Inhabited

/-- The position of a sequencer: its place in the loop, and the operations still to be done of the
one it is in, next one first (log 1). -/
structure SeqPos where
  pos : LoopPos
  todo : List Instr
deriving DecidableEq, Repr, Inhabited

/-- The capture arena: the bytes that have been written, as (offset, byte) pairs of strictly rising
offset. An offset that is not listed reads as the free value `Config.arenaByte` (log 4). -/
abbrev Memory := List Host.Cell

/-- The machine state. -/
structure State where
  /-- The named arguments of the model (00_scope.md rule R10; log 3). -/
  params : Params
  session : Session
  ctrlState : CtrlState
  curHalf : Half
  aIter : Nat
  dma : DmaBank
  sampler : Sampler
  adc : Adc
  enc : Enc
  tx : Tx
  wakeEvt : Bool
  arena : Memory
  port : Port
  /-- `now_us` (46_transmitter.md rule R286). -/
  nowUs : Time
  seqA : SeqPos
  seqB : SeqPos
  /-- The encoded stream of the capture (00_scope.md rule R16), a history (log 10). -/
  encoded : List Byte
  /-- The environment's inputs at this step (log 2). -/
  env : Env
  /-- Inputs of the steps to come, oldest first (log 2). -/
  script : List Env
  /-- How many steps took their inputs from `Config.environment` (log 2). -/
  envCount : Nat
deriving DecidableEq, Repr, Inhabited

/-- The outcome of an operation. -/
abbrev Out := Host.Outcome State Fault Refusal

/-- The canonical form of the arena: offsets strictly rise. -/
def Memory.wf : Memory → Bool
  | [] => true
  | [_] => true
  | (a, _) :: (a', b') :: m => decide (a < a') && Memory.wf ((a', b') :: m)

/-- An empty array of `n` bytes; the bytes are unspecified (10_state.md rule R42) and 0 here (log 5). -/
def ByteBuf.ofCapacity (n : Nat) : ByteBuf where
  live := []
  stale := List.replicate n 0

/-- The Session after reset (10_state.md rule R42). -/
def Session.reset (p : Params) : Session where
  sampleRate := Config.rateDefault
  numSamples := Config.countDefault
  analogMask := 0
  digitalMask := 0
  analogCount := 0
  digitalCount := 0
  dnps := .n0
  txBytesPerSample := 0
  digHalf0Off := 0
  digHalf1Off := 0
  anaHalf0Off := 0
  anaHalf1Off := 0
  digHalfSize := 0
  anaHalfSize := 0
  samplesPerHalf := 0
  maskOverrunAsBenign := false
  variant := .none
  started := false
  sending := false
  continuous := false
  aborted := false
  samplesSentCount := 0
  bytesSentCount := 0
  cmdBuf := ByteBuf.ofCapacity p.cmdbufCapacity
  rsp := []
  armReqSeq := 0
  armAckSeq := 0

/-- A DMA channel after reset (10_state.md rule R42): not chained, not busy. -/
def DmaChan.reset (c : Chan) (unit : XferUnit) : DmaChan where
  busy := false
  writeAddr := 0
  chainTo := c
  count := 0
  reload := 0
  xfer := unit

/-- The four channels after reset (10_state.md rule R42). -/
def DmaBank.reset : DmaBank where
  d0 := DmaChan.reset .d0 .word
  d1 := DmaChan.reset .d1 .word
  a0 := DmaChan.reset .a0 .byte
  a1 := DmaChan.reset .a1 .byte

/-- The encoder registers after reset, and after ARM (10_state.md rule R36). -/
def Enc.reset : Enc where
  seeded := false
  runCnt := 0
  nibLast := 0
  wordLast := 0
  valLast := 0

/-- The state after power-on reset under the parameters `p` (10_state.md rule R42, 70_reset_and_hazards.md
rule R360). -/
def State.resetWith (p : Params) : State where
  params := p
  session := Session.reset p
  ctrlState := .idle
  curHalf := .half0
  aIter := 0
  dma := DmaBank.reset
  sampler := ⟨false, false, []⟩
  adc := ⟨false, false, []⟩
  enc := Enc.reset
  tx := ⟨ByteBuf.ofCapacity p.txbufCapacity, 0, 0⟩
  wakeEvt := false
  arena := []
  port := ⟨[], []⟩
  nowUs := 0
  seqA := ⟨.top, []⟩
  seqB := ⟨.top, []⟩
  encoded := []
  env := default
  script := []
  envCount := 0

/-- The machine right after power-on reset, under the default parameters (log 3). -/
def State.reset : State := State.resetWith Config.defaultParams

end Sys2Proof.Machine
end

