-- ==== Sys2Proof/Machine/Ops.lean ====
section
/-! DEFINITION. Machine/Ops.lean: the named operations over outcomes, buffers, the arena, the DMA
channels, the peripherals, the transport and the work lists; the entry of Overrun and the return from
it; the soft reset. -/

namespace Sys2Proof.Machine

/-! ## Outcomes -/

/-- Goes on with the value of an access that can fault. -/
def withValue {α : Type} (r : Except Fault α) (f : α → Out) : Out :=
  match r with
  | .ok v => f v
  | .error e => .fault e

/-- Goes on with the next state of an operation. -/
def andThen (o : Out) (f : State → Out) : Out :=
  match o with
  | .next s => f s
  | .fault e => .fault e
  | .refused e => .refused e

/-- The outcome of an operation that changes the state or faults. -/
def ofExcept (r : Except Fault State) : Out := withValue r .next

/-! ## Byte arrays (10_state.md rules R29, R37; 20_memory.md rule R77) -/

/-- Stores `b` at the index `len` and increments `len`. -/
def ByteBuf.push (buf : ByteBuf) (b : Byte) : ByteBuf where
  live := buf.live ++ [b]
  stale := buf.stale.drop 1

/-- `len <- 0`; the bytes stay. -/
def ByteBuf.clear (buf : ByteBuf) : ByteBuf where
  live := []
  stale := buf.live ++ buf.stale

/-- The length of the array. -/
def ByteBuf.capacity (buf : ByteBuf) : Nat := buf.live.length + buf.stale.length

/-! ## The arena (20_memory.md rules R60, R62, R65) -/

/-- The byte written at an offset; `none` where nothing has been written. -/
def writtenByte : Memory → Nat → Option Byte
  | [], _ => none
  | (a', b) :: m, a => if a = a' then some b else writtenByte m a

/-- The byte at an offset; any value where nothing has been written (93_implementation_defined.md U1;
log 4). -/
def readByte (m : Memory) (a : Nat) : Byte := (writtenByte m a).getD (Config.arenaByte a)

/-- Writes one byte, keeping the offsets strictly rising. -/
def writeByte : Memory → Nat → Byte → Memory
  | [], a, b => [(a, b)]
  | (a', b') :: m, a, b =>
    if a < a' then (a, b) :: (a', b') :: m
    else if a = a' then (a, b) :: m
    else (a', b') :: writeByte m a b

/-- The `n` bytes from an offset on, lowest offset first. -/
def readBytes (m : Memory) (a : Nat) : Nat → List Byte
  | 0 => []
  | n + 1 => readByte m a :: readBytes m (a + 1) n

/-- Writes a list of bytes from an offset on. -/
def writeBytes : Memory → Nat → List Byte → Memory
  | m, _, [] => m
  | m, a, b :: bs => writeBytes (writeByte m a b) (a + 1) bs

/-- Little-endian assembly (R62), zero-extended to 32 bits. -/
def leWord (bytes : List Byte) : Word :=
  bytes.foldr (fun b acc => b.setWidth 32 ||| (acc <<< 8)) 0

/-- The `n` low bytes of a word, least significant first (R62). -/
def leBytes (v : Word) (n : Nat) : List Byte :=
  (List.range n).map fun i => (v >>> (8 * i)).setWidth 8

/-- Range and alignment of an access (00_scope.md rule R15, 20_memory.md rule R65). -/
def checkAccess (s : State) (addr n : Nat) : Except Fault Unit :=
  if s.params.arenaCapacity < addr + n then .error (.arenaRange addr)
  else if addr % n != 0 then .error (.arenaAlign addr)
  else .ok ()

/-- `MemRead(addr, n)` (00_scope.md rule R15): every aligned access inside the arena answers. -/
def memRead (s : State) (addr n : Nat) : Except Fault Word :=
  match checkAccess s addr n with
  | .error e => .error e
  | .ok _ => .ok (leWord (readBytes s.arena addr n))

/-- `MemWrite(addr, n, v)` (00_scope.md rule R15). -/
def memWrite (s : State) (addr n : Nat) (v : Word) : Except Fault State :=
  match checkAccess s addr n with
  | .error e => .error e
  | .ok _ => .ok { s with arena := writeBytes s.arena addr (leBytes v n) }

/-- `MemRead` of single bytes at consecutive offsets (45_interleave.md rule R272). -/
def memReadRun (s : State) (addr : Nat) : Nat → Except Fault (List Word)
  | 0 => .ok []
  | n + 1 =>
    match memRead s addr 1 with
    | .error e => .error e
    | .ok v =>
      match memReadRun s (addr + 1) n with
      | .error e => .error e
      | .ok vs => .ok (v :: vs)

/-! ## Work lists (log 1) -/

/-- What the named sequencer still has to do. -/
def State.todo (s : State) (who : Sequencer) : List Instr :=
  match who with
  | .a => s.seqA.todo
  | .b => s.seqB.todo

/-- `s` with another work list for the named sequencer. -/
def State.setTodo (s : State) (who : Sequencer) (ops : List Instr) : State :=
  match who with
  | .a => { s with seqA.todo := ops }
  | .b => { s with seqB.todo := ops }

/-- Operations that SEQ_A does next. -/
def State.pushA (s : State) (ops : List Instr) : State :=
  { s with seqA.todo := ops ++ s.seqA.todo }

/-- Operations that SEQ_B does next. -/
def State.pushB (s : State) (ops : List Instr) : State :=
  { s with seqB.todo := ops ++ s.seqB.todo }

/-- Operations that the named sequencer does next. -/
def State.push (s : State) (who : Sequencer) (ops : List Instr) : State :=
  match who with
  | .a => s.pushA ops
  | .b => s.pushB ops

/-! ## DMA channels (42_dma_capture.md rules R191, R196 to R202) -/

/-- `DMA[c]` (00_scope.md rule R14). -/
def DmaBank.get (d : DmaBank) : Chan → DmaChan
  | .d0 => d.d0
  | .d1 => d.d1
  | .a0 => d.a0
  | .a1 => d.a1

/-- `DMA[c] <- v`. -/
def DmaBank.set (d : DmaBank) (c : Chan) (v : DmaChan) : DmaBank :=
  match c with
  | .d0 => { d with d0 := v }
  | .d1 => { d with d1 := v }
  | .a0 => { d with a0 := v }
  | .a1 => { d with a1 := v }

/-- The registers of a channel. -/
def State.chan (s : State) (c : Chan) : DmaChan := s.dma.get c

/-- Writes the registers of a channel. -/
def State.setChan (s : State) (c : Chan) (v : DmaChan) : State := { s with dma := s.dma.set c v }

/-- The bytes of a transfer. -/
def XferUnit.bytes : XferUnit → Nat
  | .byte => 1
  | .word => 4

/-- The digital channel of a half, `Dh` (R14). -/
def digChan : Half → Chan
  | .half0 => .d0
  | .half1 => .d1

/-- The analog channel of a half, `Ah` (R14). -/
def anaChan : Half → Chan
  | .half0 => .a0
  | .half1 => .a1

/-- `Trigger(c)` (R197): ignored while busy; a reload of 0 is a model fault (60_exceptions.md rule R343). -/
def dmaTriggerOp (s : State) (c : Chan) : Except Fault State :=
  let ch := s.chan c
  if ch.busy then .ok s
  else if ch.reload = 0 then .error (.dmaReloadZero c)
  else .ok (s.setChan c { ch with count := ch.reload, busy := true })

/-- `Complete(c)` (R199): clears `busy` and, in the same step, triggers the chain target unless it is
the channel itself (R200). -/
def dmaCompleteOp (s : State) (c : Chan) : Except Fault State :=
  let ch := s.chan c
  let s' := s.setChan c { ch with busy := false }
  if ch.chainTo = c then .ok s' else dmaTriggerOp s' ch.chainTo

/-- `DmaConfigure(c, addr, n, t)` (R191): a busy channel is a model fault. -/
def dmaConfigureOp (s : State) (c : Chan) (addr n : Word) (t : Chan) : Except Fault State :=
  let ch := s.chan c
  if ch.busy then .error (.dmaConfigureBusy c)
  else .ok (s.setChan c { ch with writeAddr := addr, reload := n, chainTo := t, count := 0 })

/-- `DmaAbort(c)` (R191): no chain trigger results (log 11). -/
def dmaAbortOp (s : State) (c : Chan) : State :=
  s.setChan c { s.chan c with busy := false, count := 0 }

/-- `DMA[c].chain_to <- t`. -/
def setChainTo (s : State) (c t : Chan) : State := s.setChan c { s.chan c with chainTo := t }

/-- `DMA[c].write_addr <- addr` of an idle channel; of a busy one it is a model fault (U21). -/
def setWriteAddr (s : State) (c : Chan) (addr : Word) : Except Fault State :=
  if (s.chan c).busy then .error (.dmaAddrBusy c)
  else .ok (s.setChan c { s.chan c with writeAddr := addr })

/-- The next unit of a channel's source FIFO, zero-extended, and the state after the pop (R196, R198):
the sampler's FIFO for D0 and D1, the ADC's for A0 and A1. -/
def popSource (s : State) (c : Chan) : Option (Word × State) :=
  match c with
  | .d0 | .d1 =>
    match s.sampler.fifo with
    | [] => none
    | u :: rest => some (u, { s with sampler.fifo := rest })
  | .a0 | .a1 =>
    match s.adc.fifo with
    | [] => none
    | u :: rest => some (u.setWidth 32, { s with adc.fifo := rest })

/-- One DMA transfer of channel `c` (R198); no step while the channel is idle or its FIFO empty
(log 17). -/
def dmaXferOp (s : State) (c : Chan) : Except Fault State :=
  if (s.chan c).busy then
    match popSource s c with
    | none => .ok s
    | some (u, s1) =>
      let ch := s.chan c
      match memWrite s1 ch.writeAddr.toNat ch.xfer.bytes u with
      | .error e => .error e
      | .ok s2 =>
        let s3 := s2.setChan c
          { ch with
            writeAddr := ch.writeAddr + BitVec.ofNat 32 ch.xfer.bytes
            count := ch.count - 1 }
        if ch.count - 1 = 0 then dmaCompleteOp s3 c else .ok s3
  else .ok s

/-! ## Peripherals (42_dma_capture.md rules R192, R203, R220) -/

/-- `SamplerStart`: the rate and the width have no other effect on the block (R192; log 20). -/
def samplerStart (s : State) : State := { s with sampler.running := true }

/-- `AdcStart` (R192; log 20). -/
def adcStart (s : State) : State := { s with adc.running := true }

/-- `SamplerStop`: stops and empties the FIFO (R192). -/
def samplerStop (s : State) : State :=
  { s with sampler := { s.sampler with running := false, fifo := [] } }

/-- `AdcStop` (R192). -/
def adcStop (s : State) : State := { s with adc := { s.adc with running := false, fifo := [] } }

/-- The sampler's step (R203): deliver a word, or lose it and set `rx_stall` when the FIFO is full. -/
def samplerDeliver (s : State) (w : Word) : State :=
  if s.sampler.running then
    if s.sampler.fifo.length < s.params.samplerFifoDepth then
      { s with sampler.fifo := s.sampler.fifo ++ [w] }
    else { s with sampler.rxStall := true }
  else s

/-- The ADC's step (R203). -/
def adcDeliver (s : State) (b : Byte) : State :=
  if s.adc.running then
    if s.adc.fifo.length < s.params.adcFifoDepth then
      { s with adc.fifo := s.adc.fifo ++ [b] }
    else { s with adc.fifoOverflow := true }
  else s

/-- `StopCapture()` (R220): peripherals first, then the four channels. -/
def stopCapture (s : State) : State :=
  let s1 := adcStop (samplerStop s)
  dmaAbortOp (dmaAbortOp (dmaAbortOp (dmaAbortOp s1 .d0) .d1) .a0) .a1

/-! ## Transmitter (46_transmitter.md rules R285 to R291) -/

/-- `Emit(b)` (R288): a full buffer is flushed first. A byte below 0x30 is a model fault
(60_exceptions.md rule R343). -/
def emitByte (s : State) (b : Byte) : Out :=
  if b.toNat < 0x30 then .fault (.emitReserved b)
  else if s.tx.buf.live.length = s.params.txbufCapacity then
    .next (s.pushA [.txflush .start, .emit b])
  else .next { s with tx.buf := s.tx.buf.push b, encoded := s.encoded ++ [b] }

/-- How many of `n` bytes offered `PORT.write` accepts (R285): all of them when they are no more than
`write_available` at the call, else any number up to `n` (log 9). -/
def portAccepts (e : Env) (n : Nat) : Nat :=
  if n ≤ e.availableAtCall then n else min e.accepted n

/-- `PORT.write(data[0 .. k))` of accepted bytes, with the counter and the time of R291. -/
def portWrite (s : State) (data : List Byte) (k : Nat) (counted : Bool) : State :=
  { s with
    port.wire := s.port.wire ++ data.take k
    session.bytesSentCount := s.session.bytesSentCount + (if counted then k else 0)
    tx.lastWriteUs := if 0 < k then s.nowUs else s.tx.lastWriteUs }

/-- The timeout test of R291: `now_us - TX.last_write_us > TX_TIMEOUT_US`; in the untimed model the free
choice of R293 (log 7). -/
def sendTimedOut (s : State) : Bool :=
  if s.params.timed then decide (s.params.txTimeoutUs < (s.nowUs - s.tx.lastWriteUs).toNat)
  else s.env.giveUp

/-- One iteration of Send's loop (R291), `data` being what is still to be sent: either some bytes are
offered to the transport, or the rest is dropped, or the loop goes on. -/
def sendIteration (s : State) (who : Sequencer) (data : List Byte) (counted : Bool) : State :=
  let n := min data.length s.env.writeAvailable
  if 0 < n then
    let k := portAccepts s.env n
    let s1 := portWrite s data k counted
    if data.drop k = [] then s1 else s1.push who [.send who .loop (data.drop k) counted]
  else if !s.env.connectedLater || sendTimedOut s then s
  else s.push who [.send who .loop data counted]

/-- The call of `Send(data, counted)` by a sequencer. -/
def sendCall (who : Sequencer) (data : List Byte) (counted : Bool) : Instr :=
  .send who .entry data counted

/-! ## Overrun: entry and return (60_exceptions.md rules R336, R340) -/

/-- `raise Overrun(cause)` (42_dma_capture.md rule R213): `aborted`, `sending`, `ctrl_state` and the time
of the next marker are written and the marker is sent. Nothing is saved, and no register records the
cause (R331; log 29). -/
def raiseOverrun (s : State) (_cause : OverrunCause) : State :=
  State.pushA
    { s with
      session.aborted := true
      session.sending := false
      ctrlState := .aborted
      tx.nextMarkerUs := s.nowUs + BitVec.ofNat 64 s.params.abortMarkerPeriodUs }
    [.outMarker]

/-- The return from Overrun (42_dma_capture.md rule R222, 60_exceptions.md rule R340): to Idle, with
nothing restored. Also the end of a normal capture (R221). -/
def leaveCapture (s : State) : State :=
  { s with session.started := false, ctrlState := .idle }

/-! ## Reset (70_reset_and_hazards.md rules R362, R363) -/

/-- `SoftReset()`: every register to its reset value, both sequencers to the top of their loops. What
survives is R363: the arena, the bytes of the two buffers, what the transport has accepted, the
characters not yet taken, and `now_us`; with the model's own inputs. -/
def softResetOp (s : State) : State :=
  { State.resetWith s.params with
    session := { Session.reset s.params with cmdBuf := s.session.cmdBuf.clear }
    tx := ⟨s.tx.buf.clear, 0, 0⟩
    arena := s.arena
    port := s.port
    nowUs := s.nowUs
    env := s.env
    script := s.script
    envCount := s.envCount }

end Sys2Proof.Machine
end

