-- ==== Sys2Proof/Machine/Operands.lean ====
section
/-! DEFINITION. Machine/Operands.lean: the operand forms: the operands of command lines
(30_encoding.md rules R94, R95) and of the operations over a half (20_memory.md rules R63, R64). -/

namespace Sys2Proof.Machine

/-! ## Command operands -/

/-- The enable digit (R95): `0` clears, `1` sets. -/
def parseEnable (c : Byte) : Option Bool :=
  if c = 0x30 then some false else if c = 0x31 then some true else none

/-- The channel (R95): one or two decimal digits, at most 31. -/
def parseChannel (s : List Byte) : Option Nat :=
  if s.length ≤ 2 then
    match parseDec s with
    | some ch => if ch ≤ 31 then some ch else none
    | none => none
  else none

/-- The operands of a CMDE line (R95); `none` when malformed. -/
def parseEnableChannel : List Byte → Option (Bool × Nat)
  | [] => none
  | e :: ch =>
    match parseEnable e, parseChannel ch with
    | some on, some n => some (on, n)
    | _, _ => none

/-! ## Operands over a half -/

/-- The number of nibbles a digital sample occupies (10_state.md rule R24). -/
def Dnps.toNat : Dnps → Nat
  | .n0 => 0
  | .n1 => 1
  | .n2 => 2
  | .n4 => 4
  | .n8 => 8

/-- `dig_off(h)` (42_dma_capture.md rule R205). -/
def Session.digOff (v : Session) : Half → Word
  | .half0 => v.digHalf0Off
  | .half1 => v.digHalf1Off

/-- `ana_off(h)` (42_dma_capture.md rule R205). -/
def Session.anaOff (v : Session) : Half → Word
  | .half0 => v.anaHalf0Off
  | .half1 => v.anaHalf1Off

/-- Nibble `j` of a word, nibble 0 being bits 3:0 (43_nibble_rle.md rule R232). -/
def nib (w : Word) (j : Nat) : Nibble := (w >>> (4 * j)).setWidth 4

/-- Digital sample `k` of a half (20_memory.md rule R63). There is none when no digital channel is
enabled. -/
def digSample (s : State) (h : Half) (k : Nat) : Except Fault Word :=
  let base := (s.session.digOff h).toNat
  match s.session.dnps with
  | .n0 => .ok 0
  | .n1 =>
    match memRead s (base + 4 * (k / 8)) 4 with
    | .error e => .error e
    | .ok w => .ok ((nib w (k % 8)).setWidth 32)
  | .n2 => memRead s (base + k) 1
  | .n4 => memRead s (base + 2 * k) 2
  | .n8 => memRead s (base + 4 * k) 4

/-- The analog samples of slice `k` of a half, in ascending order of enabled channel
(20_memory.md rule R64). -/
def anaSamples (s : State) (h : Half) (k : Nat) : Except Fault (List Word) :=
  let n := s.session.analogCount.toNat
  memReadRun s ((s.session.anaOff h).toNat + k * n) n

end Sys2Proof.Machine
end

