-- ==== Sys2Proof/Machine/Flags.lean ====
section
/-! DEFINITION. Machine/Flags.lean: the conditions the operations test: the arm handshake, the enabled
kinds, the busy test, the target and the overrun test. -/

namespace Sys2Proof.Machine

/-- `ArmPending` (10_state.md rule R30). -/
def armPending (s : State) : Bool := s.session.armReqSeq != s.session.armAckSeq

/-- `CaptureActive` (47_scheduler.md rule R311). -/
def captureActive (s : State) : Bool := armPending s || s.session.started

/-- `dig_en` (42_dma_capture.md rule R193). -/
def digEn (s : State) : Bool := s.session.dnps != .n0

/-- `ana_en` (42_dma_capture.md rule R193). -/
def anaEn (s : State) : Bool := s.session.analogCount != 0

/-- Step 1 of CHECK_HALF: a channel of an enabled kind of the half is busy (R205, R206). -/
def halfBusy (s : State) (h : Half) : Bool :=
  (digEn s && (s.chan (digChan h)).busy) || (anaEn s && (s.chan (anaChan h)).busy)

/-- The peer test of step 4: a channel of an enabled kind of the half is idle (R205, R212). -/
def halfIdle (s : State) (h : Half) : Bool :=
  (digEn s && !(s.chan (digChan h)).busy) || (anaEn s && !(s.chan (anaChan h)).busy)

/-- Step 3d: the fixed-length target has been reached (R205, R211). -/
def targetReached (s : State) : Bool :=
  !s.session.continuous && decide (s.session.numSamples.toNat ≤ s.session.samplesSentCount)

/-- Step 4 of CHECK_HALF for half `h`: the overrun cause, the first that holds in the order stall,
overflow, peer idle; none when masked (R205, R212, R214; 60_exceptions.md rule R339). -/
def overrunCause (s : State) (h : Half) : Option OverrunCause :=
  if s.session.maskOverrunAsBenign then none
  else if digEn s && s.sampler.rxStall then some .samplerStall
  else if anaEn s && s.adc.fifoOverflow then some .adcOverflow
  else if halfIdle s h.other then some .peerIdle
  else none

/-- The repeated marker is due (42_dma_capture.md rule R222); in the untimed model a free choice
(log 7). -/
def markerDue (s : State) : Bool :=
  if s.params.timed then decide (s.tx.nextMarkerUs.toNat ≤ s.nowUs.toNat) else s.env.sendMarker

/-- An iteration of SEQ_A in which it wakes SEQ_B (47_scheduler.md rule R321). -/
def wakeDue (s : State) : Bool := s.aIter % s.params.wakePeriod == 0

end Sys2Proof.Machine
end

