-- ==== Sys2Proof/Machine/Nibble.lean ====
section
/-! DEFINITION. Machine/Nibble.lean: ENC_NIBBLE (43_nibble_rle.md rules R230 to R240). The parts of rule R232
are functions of the encoder registers that give the output operations and the registers after them;
each loop iteration is one step (log 23). -/

namespace Sys2Proof.Machine

/-- `AllEq(w)`: the eight nibbles of `w` are equal (R232). -/
def allEq (w : Word) : Bool := (w >>> 4) == (w &&& 0x0FFFFFFF)

/-- `FlushLong()` (R232, R236): the run bytes of a pending run, and what stays pending (0 to 7). -/
def flushLong (run : Word) : List Instr × Word :=
  let n := run.toNat
  let r := n % Config.nibRunMax
  (List.replicate (n / Config.nibRunMax) (.outNrun 127)
      ++ (if 8 ≤ r then [.outNrun (BitVec.ofNat 7 (r / 8 + 47))] else []),
    BitVec.ofNat 32 (r % 8))

/-- The seed (R233): the first word as eight tagged bytes with run 0. -/
def nibSeed (e : Enc) (w : Word) : List Instr × Enc :=
  ((List.range 8).map fun j => .outTagged 0 (nib w j),
    { e with nibLast := nib w 7, wordLast := w, runCnt := 0, seeded := true })

/-- One nibble of the fine path (R235). -/
def nibStep (e : Enc) (v : Nibble) : List Instr × Enc :=
  if v = e.nibLast then ([], { e with runCnt := e.runCnt + 1 })
  else
    let r := flushLong e.runCnt
    (r.1 ++ [.outTagged (r.2.setWidth 3) v, .thresholdFlush], { e with runCnt := 0, nibLast := v })

/-- A list of nibbles of the fine path, in sample order (R235). -/
def nibSteps (e : Enc) : List Nibble → List Instr × Enc
  | [] => ([], e)
  | v :: vs =>
    let r := nibStep e v
    let q := nibSteps r.2 vs
    (r.1 ++ q.1, q.2)

/-- The eight samples of a word, in time order (20_memory.md rule R63). -/
def nibbles (w : Word) : List Nibble := (List.range 8).map (nib w)

/-- One word of the loop: coarse path (R234) or fine path (R235). -/
def nibWord (e : Enc) (w : Word) : List Instr × Enc :=
  if w = e.wordLast ∧ allEq w then ([], { e with runCnt := e.runCnt + 8 })
  else
    let r := nibSteps e (nibbles w)
    (r.1, { r.2 with wordLast := w })

/-- The end of a half (R237): the pending run is written out. -/
def nibEnd (e : Enc) : List Instr × Enc :=
  let r := flushLong e.runCnt
  (r.1 ++ (if r.2 = 0 then [] else [.outTagged ((r.2 - 1).setWidth 3) e.nibLast]),
    { e with runCnt := 0 })

/-- The output operations of a part of an encoder, the registers after it, and what follows. -/
def encodePart (s : State) (r : List Instr × Enc) (next : List Instr) : State :=
  State.pushA { s with enc := r.2 } (r.1 ++ next)

/-- ENC_NIBBLE (R232). -/
def execEncNibble (pos : EncPos) (h : Half) (s : State) : Out :=
  let base := (s.session.digOff h).toNat
  let words := s.session.samplesPerHalf.toNat / 8
  match pos with
  | .start =>
    if s.enc.seeded then .next (s.pushA [.encNibble (.index 0) h])
    else
      withValue (memRead s base 4) fun w =>
        .next (encodePart s (nibSeed s.enc w) [.encNibble (.index 1) h])
  | .index i =>
    if i < words then
      withValue (memRead s (base + 4 * i) 4) fun w =>
        .next (encodePart s (nibWord s.enc w) [.encNibble (.index (i + 1)) h])
    else .next (s.pushA [.encNibble .finish h])
  | .finish => .next (encodePart s (nibEnd s.enc) [.txflush .start])

end Sys2Proof.Machine
end

