-- ==== Sys2Proof/Machine/ByteRle.lean ====
section
/-! DEFINITION. Machine/ByteRle.lean: ENC_BYTE at the three sample widths (44_byte_rle.md rules R250 to
R259): one loop, three widths (rule R259). Each loop iteration is one step (log 23). -/

namespace Sys2Proof.Machine

/-- `EmitValue(v)` (R252): `t` group bytes, least significant group first (30_encoding.md rule R102). -/
def groupOps (t : Nat) (v : Word) : List Instr :=
  (List.range t).map fun g => .outGroup ((v >>> (7 * g)).setWidth 7)

/-- The run byte of code `n`, of the class its range names (30_encoding.md rule R103). -/
def brunOp (n : Nat) : Instr :=
  if n < 80 then .outBrunDirect (BitVec.ofNat 7 n) else .outBrunStep (BitVec.ofNat 7 n)

/-- `EmitRun(n)` (R252, R256): bytes of 127, then one stepped byte, then one direct byte. -/
def runOps (n : Nat) : List Instr :=
  let r := n % Config.byteRunMax
  let d := if Config.byteRunDirectMax < r then r % 32 else r
  List.replicate (n / Config.byteRunMax) (brunOp 127)
    ++ (if Config.byteRunDirectMax < r then [brunOp (78 + r / 32)] else [])
    ++ (if 0 < d then [brunOp (47 + d)] else [])

/-- The seed (R253): the first sample as a value. -/
def byteSeed (t : Nat) (e : Enc) (v : Word) : List Instr × Enc :=
  (groupOps t v, { e with valLast := v, runCnt := 0, seeded := true })

/-- One sample of the loop: counted when equal to the previous one (R254), else the pending run and the
value are sent (R255). -/
def byteStep (t : Nat) (e : Enc) (v : Word) : List Instr × Enc :=
  if v = e.valLast then ([], { e with runCnt := e.runCnt + 1 })
  else
    (runOps e.runCnt.toNat ++ groupOps t v ++ [.thresholdFlush],
      { e with runCnt := 0, valLast := v })

/-- The end of a half (R257). -/
def byteEnd (e : Enc) : List Instr × Enc := (runOps e.runCnt.toNat, { e with runCnt := 0 })

/-- `T` (10_state.md rule R24). -/
def groupCount (s : State) : Nat := s.session.txBytesPerSample.toNat

/-- ENC_BYTE for the sample width `wd` (R252); `self` is the encoder's own row at a position. -/
def encByte (wd : Nat) (self : EncPos → Instr) (pos : EncPos) (h : Half) (s : State) : Out :=
  let base := (s.session.digOff h).toNat
  match pos with
  | .start =>
    if s.enc.seeded then .next (s.pushA [self (.index 0)])
    else
      withValue (memRead s base wd) fun v =>
        .next (encodePart s (byteSeed (groupCount s) s.enc v) [self (.index 1)])
  | .index k =>
    if k < s.session.samplesPerHalf.toNat then
      withValue (memRead s (base + k * wd) wd) fun v =>
        .next (encodePart s (byteStep (groupCount s) s.enc v) [self (.index (k + 1))])
    else .next (s.pushA [self .finish])
  | .finish => .next (encodePart s (byteEnd s.enc) [.txflush .start])

/-- ENC_BYTE1 (R252 with Wd = 1). -/
def execEncByte1 (pos : EncPos) (h : Half) (s : State) : Out :=
  encByte 1 (fun q => .encByte1 q h) pos h s

/-- ENC_BYTE2 (R252 with Wd = 2). -/
def execEncByte2 (pos : EncPos) (h : Half) (s : State) : Out :=
  encByte 2 (fun q => .encByte2 q h) pos h s

/-- ENC_BYTE4 (R252 with Wd = 4). -/
def execEncByte4 (pos : EncPos) (h : Half) (s : State) : Out :=
  encByte 4 (fun q => .encByte4 q h) pos h s

end Sys2Proof.Machine
end

