-- ==== Sys2Proof/Machine/Capture.lean ====
section
/-! DEFINITION. Machine/Capture.lean: ARM, CHECK_HALF, OVERRUN and STOP (42_dma_capture.md rules R193 to
R195, R204 to R220), executed by SEQ_A. -/

namespace Sys2Proof.Machine

/-! ## ARM -/

/-- What ARM_CONFIGURE clears and sets before anything is configured (R193). -/
def armClear (s : State) : State :=
  { s with
    session := { s.session with
      armAckSeq := s.session.armReqSeq
      samplesSentCount := 0
      bytesSentCount := 0
      aborted := false
      started := true
      sending := true }
    enc := Enc.reset
    tx.buf := s.tx.buf.clear
    curHalf := .half0
    encoded := [] }

/-- The peripheral flags and FIFOs cleared by ARM_CONFIGURE (R193). -/
def armPeripherals (s : State) : State :=
  { s with
    sampler := { s.sampler with rxStall := false, fifo := [] }
    adc := { s.adc with fifoOverflow := false, fifo := [] } }

/-- The pair of channels of one kind: half 0 chained to half 1, half 1 to itself, half 0 started (R193). -/
def configurePair (s : State) (c0 c1 : Chan) (off0 off1 transfers : Word) : Except Fault State :=
  match dmaConfigureOp s c0 off0 transfers c1 with
  | .error e => .error e
  | .ok s1 =>
    match dmaConfigureOp s1 c1 off1 transfers c1 with
    | .error e => .error e
    | .ok s2 => dmaTriggerOp s2 c0

/-- The digital pair, if enabled (R193): `dig_half_size / 4` words a half. The pair of a disabled kind keeps
what an earlier capture left in its registers (log 32). -/
def configureDigital (s : State) : Except Fault State :=
  if digEn s then
    configurePair s .d0 .d1 s.session.digHalf0Off s.session.digHalf1Off (s.session.digHalfSize / 4)
  else .ok s

/-- The analog pair, if enabled (R193): `ana_half_size` bytes a half. The pair of a disabled kind keeps what
an earlier capture left in its registers (log 32). -/
def configureAnalog (s : State) : Except Fault State :=
  if anaEn s then
    configurePair s .a0 .a1 s.session.anaHalf0Off s.session.anaHalf1Off s.session.anaHalfSize
  else .ok s

/-- `ArmConfigure()` (R193); with no channel enabled the capture completes at once (R195). -/
def armConfigure (s : State) : Out :=
  let s1 := armClear s
  if s.session.variant = .none then
    .next { s1 with session.sending := false, ctrlState := .completed }
  else
    withValue (configureDigital (armPeripherals s1)) fun s2 =>
      withValue (configureAnalog s2) fun s3 => .next { s3 with ctrlState := .armed }

/-- `ArmStart()` (R193): both peripherals in one atomic step (R194). -/
def armStart (s : State) : State :=
  let s1 := if digEn s then samplerStart s else s
  let s2 := if anaEn s then adcStart s1 else s1
  { s2 with ctrlState := .capturing }

/-- ARM (R193). -/
def execArm (st : ArmStep) (s : State) : Out :=
  match st with
  | .configure => armConfigure s
  | .start => .next (armStart s)

/-! ## CHECK_HALF -/

/-- The encoder of a variant (R210). -/
def encoderOf (v : Variant) (h : Half) : List Instr :=
  match v with
  | .none => []
  | .nibble => [.encNibble .start h]
  | .byte1 => [.encByte1 .start h]
  | .byte2 => [.encByte2 .start h]
  | .byte4 => [.encByte4 .start h]
  | .interleave => [.encInterleave .start h]

/-- Step 3a (R208): the channels of the half chain to themselves. -/
def detachHalf (s : State) (h : Half) : State :=
  let s1 := if digEn s then setChainTo s (digChan h) (digChan h) else s
  if anaEn s then setChainTo s1 (anaChan h) (anaChan h) else s1

/-- Step 3b (R209): the write addresses return to the region starts. -/
def restoreHalf (s : State) (h : Half) : Except Fault State :=
  let r1 :=
    if digEn s then setWriteAddr s (digChan h) (s.session.digOff h) else .ok s
  match r1 with
  | .error e => .error e
  | .ok s1 => if anaEn s then setWriteAddr s1 (anaChan h) (s.session.anaOff h) else .ok s1

/-- Step 5 (R215): the other half's channels chain back to this half's. -/
def rechainHalf (s : State) (h : Half) : State :=
  let s1 := if digEn s then setChainTo s (digChan h.other) (digChan h) else s
  if anaEn s then setChainTo s1 (anaChan h.other) (anaChan h) else s1

/-- CHECK_HALF (R205). Each step hands over to the next; `NotReady` (R207) changes nothing, and Overrun
(R213) leaves step 5 out. -/
def execCheckHalf (st : CheckStep) (h : Half) (s : State) : Out :=
  match st with
  | .poll => if halfBusy s h then .next s else .next (s.pushA [.checkHalf .detach h])
  | .detach => .next ((detachHalf s h).pushA [.checkHalf .restore h])
  | .restore => withValue (restoreHalf s h) fun s1 => .next (s1.pushA [.checkHalf .encode h])
  | .encode => .next (s.pushA (encoderOf s.session.variant h ++ [.checkHalf .account h]))
  | .account =>
    .next (State.pushA
      { s with session.samplesSentCount :=
          s.session.samplesSentCount + s.session.samplesPerHalf.toNat }
      [.checkHalf .target h])
  | .target =>
    .next (State.pushA
      { s with session.sending := s.session.sending && !targetReached s } [.checkHalf .test h])
  | .test =>
    match overrunCause s h with
    | some cause => .next (raiseOverrun s cause)
    | none => .next (s.pushA [.checkHalf .rechain h])
  | .rechain => .next ((rechainHalf s h).pushA [.checkHalf .ready h])
  | .ready => .next { s with curHalf := s.curHalf.other }

/-- OVERRUN (R213, 60_exceptions.md rule R336). -/
def execOverrun (cause : OverrunCause) (s : State) : Out := .next (raiseOverrun s cause)

/-- STOP (R220). -/
def execStop (s : State) : Out := .next (stopCapture s)

end Sys2Proof.Machine
end

