-- ==== Sys2Proof/Machine/Planner.lean ====
section
/-! DEFINITION. Machine/Planner.lean: PLAN (41_buffer_planner.md rules R170 to R181), a pure function of the
Session and two parameters. Counts and byte sizes are computed as naturals and stored in their 32-bit
registers (log 12). -/

namespace Sys2Proof.Machine

/-- `hib(x)`: 0 for 0, else one plus the index of the highest one bit (00_scope.md rule R13). -/
def hib {w : Nat} (x : BitVec w) : Nat := if x.toNat = 0 then 0 else Nat.log2 x.toNat + 1

/-- `popcount(x)`: the number of one bits (00_scope.md rule R13). -/
def popcount {w : Nat} (x : BitVec w) : Nat := (List.range w).countP fun i => x.getLsbD i

/-- `ceil_div(a, b)` (00_scope.md rule R13). -/
def ceilDiv (a b : Nat) : Nat := (a + b - 1) / b

/-- The rate made even by clearing bit 0 (R171). -/
def evenRate (r : Word) : Word := r &&& ~~~1#32

/-- The count clamped to COUNT_MIN, saturated, and rounded up to a multiple of 4 (R172). -/
def roundCount (n : Word) : Word :=
  let n1 := if n < Config.countMin then Config.countMin else n
  let n2 := if (0xFFFFFFFC : Word) < n1 then 0xFFFFFFFC else n1
  (n2 + 3) &&& ~~~3#32

/-- Nibbles per digital sample from the highest enabled channel (R173). -/
def dnpsOf (h : Nat) : Dnps :=
  if h = 0 then .n0 else if h ≤ 4 then .n1 else if h ≤ 8 then .n2 else if h ≤ 16 then .n4 else .n8

/-- Steps 1 and 2 of PLAN (R171 to R173). -/
def planDerive (v : Session) : Session :=
  let h := hib v.digitalMask
  { v with
    sampleRate := evenRate v.sampleRate
    numSamples := roundCount v.numSamples
    dnps := dnpsOf h
    digitalCount := BitVec.ofNat 5 h
    txBytesPerSample := BitVec.ofNat 2 (ceilDiv h 7)
    analogCount := BitVec.ofNat 2 (popcount v.analogMask) }

/-- The smallest number of slices whose digital bytes are a multiple of 4 (R175, `Sd`). -/
def digAlign (dnps : Nat) : Nat := if dnps = 0 then 1 else 8 / Nat.gcd 8 dnps

/-- The smallest number of slices whose analog bytes are a multiple of 4 (R175, `Sa`). -/
def anaAlign (ac : Nat) : Nat := if ac = 0 then 1 else 4 / Nat.gcd 4 ac

/-- `chunk_samples` (R175, R176). -/
def chunkSamples (mult dnps ac : Nat) : Nat := Nat.lcm (digAlign dnps) (anaAlign ac) * mult

/-- `dig_chunk_bytes` (R176). -/
def digChunkBytes (mult dnps ac : Nat) : Nat := chunkSamples mult dnps ac * dnps / 2

/-- `ana_chunk_bytes` (R176). -/
def anaChunkBytes (mult dnps ac : Nat) : Nat := chunkSamples mult dnps ac * ac

/-- `chunk_bytes` (R176). -/
def chunkBytes (mult dnps ac : Nat) : Nat := digChunkBytes mult dnps ac + anaChunkBytes mult dnps ac

/-- `chunks_fit`: how many chunks the arena holds, rounded down to even (R179). -/
def chunksFit (capacity mult dnps ac : Nat) : Nat :=
  let n := capacity / chunkBytes mult dnps ac
  n - n % 2

/-- `chunks_needed`: how many chunks the request needs, rounded up to even (R179). -/
def chunksNeeded (count mult dnps ac : Nat) : Nat :=
  let n := ceilDiv count (chunkSamples mult dnps ac)
  n + n % 2

/-- The request fits in one pass of the arena: fixed length and strictly fewer chunks (R179). -/
def fitsOnePass (p : Params) (v : Session) : Bool :=
  !v.continuous
    && decide (chunksNeeded v.numSamples.toNat p.chunkMult v.dnps.toNat v.analogCount.toNat
        < chunksFit p.arenaCapacity p.chunkMult v.dnps.toNat v.analogCount.toNat)

/-- `total_chunks` (R179). -/
def totalChunks (p : Params) (v : Session) : Nat :=
  if fitsOnePass p v then
    chunksNeeded v.numSamples.toNat p.chunkMult v.dnps.toNat v.analogCount.toNat
  else chunksFit p.arenaCapacity p.chunkMult v.dnps.toNat v.analogCount.toNat

/-- The variant (R181). -/
def variantOf (dnps : Dnps) (ac : BitVec 2) : Variant :=
  if ac != 0 then .interleave
  else
    match dnps with
    | .n0 => .none
    | .n1 => .nibble
    | .n2 => .byte1
    | .n4 => .byte2
    | .n8 => .byte4

/-- The geometry of no channel enabled (R174). -/
def planDegenerate (v : Session) : Session :=
  { v with
    digHalf0Off := 0
    digHalf1Off := 0
    anaHalf0Off := 0
    anaHalf1Off := 0
    digHalfSize := 0
    anaHalfSize := 0
    samplesPerHalf := 0
    maskOverrunAsBenign := false
    variant := .none }

/-- Steps 3 to 5 of PLAN and the variant (R175 to R181), from derived registers. -/
def planGeometry (p : Params) (v : Session) : Session :=
  let dn := v.dnps.toNat
  let ac := v.analogCount.toNat
  let perHalf := totalChunks p v / 2
  let dig := perHalf * digChunkBytes p.chunkMult dn ac
  let ana := perHalf * anaChunkBytes p.chunkMult dn ac
  { v with
    digHalfSize := BitVec.ofNat 32 dig
    anaHalfSize := BitVec.ofNat 32 ana
    digHalf0Off := 0
    digHalf1Off := BitVec.ofNat 32 dig
    anaHalf0Off := BitVec.ofNat 32 (2 * dig)
    anaHalf1Off := BitVec.ofNat 32 (2 * dig + ana)
    samplesPerHalf := BitVec.ofNat 32 (perHalf * chunkSamples p.chunkMult dn ac)
    maskOverrunAsBenign := fitsOnePass p v
    variant := variantOf v.dnps v.analogCount }

/-- PLAN on the Session (R170): one pure function. -/
def planSession (p : Params) (v : Session) : Session :=
  let v1 := planDerive v
  if v1.dnps = .n0 ∧ v1.analogCount = 0 then planDegenerate v1 else planGeometry p v1

/-- PLAN as an operation: under an arena too small for two of the largest chunks it has no meaning, and
the parameter choice is refused (R178; log 14). -/
def planOp (s : State) : Out :=
  if s.params.arenaOk then .next { s with session := planSession s.params s.session }
  else .refused .parameterChoice

/-- PLAN (R170). -/
def execPlan (s : State) : Out := planOp s

end Sys2Proof.Machine
end

