-- ==== Sys2Proof/Machine/Commands.lean ====
section
/-! DEFINITION. Machine/Commands.lean: the host commands (40_commands.md, 47_scheduler.md rule R318).
A line command runs after DISPATCH has set `S.rsp` to the acknowledgement `*` (rule R134); where a
rule says "S.rsp stays `*`" the meaning does not write it. Logging is no state (rule R136). -/

namespace Sys2Proof.Machine

/-- `S.rsp <- r`. -/
def setRsp (s : State) (r : List Byte) : State := { s with session.rsp := r }

/-- RESET (R132): `SoftReset()`. -/
def execReset (s : State) : Out := .next (softResetOp s)

/-- IDENT (R137). -/
def execIdent (_args : List Byte) (s : State) : Out := .next (setRsp s (identString s.params))

/-- RATE (R138): in every case the response stays `*`. -/
def execRate (args : List Byte) (s : State) : Out :=
  match parseDec args with
  | some v =>
    if Config.rateMin ≤ v ∧ v ≤ Config.rateMax then
      .next { s with session.sampleRate := BitVec.ofNat 32 v }
    else .next s
  | none => .next s

/-- LIMIT (R139). -/
def execLimit (args : List Byte) (s : State) : Out :=
  match parseDec args with
  | some v =>
    if 1 ≤ v ∧ v ≤ 2 ^ 32 - 1 then .next { s with session.numSamples := BitVec.ofNat 32 v }
    else .next (setRsp s [])
  | none => .next (setRsp s [])

/-- ASCALE (R140): the same string for any argument. -/
def execAscale (_args : List Byte) (s : State) : Out := .next (setRsp s s.params.analogScaleStr)

/-- The start of a capture (R141, R142): `continuous`, PLAN, then the arm request, and no response. -/
def startCapture (s : State) (continuous : Bool) : Out :=
  andThen (planOp { s with session.continuous := continuous }) fun s1 =>
    .next (setRsp { s1 with session.armReqSeq := s1.session.armReqSeq + 1 } [])

/-- FIXED (R141). -/
def execFixed (_args : List Byte) (s : State) : Out := startCapture s false

/-- CONT (R142). -/
def execCont (_args : List Byte) (s : State) : Out := startCapture s true

/-- Sets or clears bit `ch` of a mask (R143). -/
def writeMaskBit {w : Nat} (mask : BitVec w) (on : Bool) (ch : Nat) : BitVec w :=
  if on then mask ||| (1#w <<< ch) else mask &&& ~~~(1#w <<< ch)

/-- AEN (R143): a malformed operand or a channel the device does not have is rejected with no
response. -/
def execAen (args : List Byte) (s : State) : Out :=
  match parseEnableChannel args with
  | some (on, ch) =>
    if ch < Config.numAChan then
      .next { s with session.analogMask := writeMaskBit s.session.analogMask on ch }
    else .next (setRsp s [])
  | none => .next (setRsp s [])

/-- DEN (R144). -/
def execDen (args : List Byte) (s : State) : Out :=
  match parseEnableChannel args with
  | some (on, ch) =>
    if ch < Config.numDChan then
      .next { s with session.digitalMask := writeMaskBit s.session.digitalMask on ch }
    else .next (setRsp s [])
  | none => .next (setRsp s [])

/-- TRIG (R145): accepted, no effect; the response stays `*`. -/
def execTrig (_args : List Byte) (s : State) : Out := .next s

/-- PRETRIG (R145): accepted, no effect; the response stays `*`. -/
def execPretrig (_args : List Byte) (s : State) : Out := .next s

/-- REJECT (R146): no response. -/
def execReject (_first : Byte) (_args : List Byte) (s : State) : Out := .next (setRsp s [])

/-- ABORT (47_scheduler.md rule R318): two writes, one atomic step. -/
def execAbort (s : State) : Out :=
  .next { s with session.sending := false, session.aborted := false }

/-- EMPTY_LINE (30_encoding.md rule R93): no state change, no response. -/
def execEmptyLine (s : State) : Out := .next s

end Sys2Proof.Machine
end

