-- ==== Sys2Proof/Machine/Dma.lean ====
section
/-! DEFINITION. Machine/Dma.lean: DMA_TRIGGER, DMA_XFER, DMA_COMPLETE (42_dma_capture.md rules R197 to R199). -/

namespace Sys2Proof.Machine

/-- DMA_TRIGGER (R197). -/
def execDmaTrigger (c : Chan) (s : State) : Out := ofExcept (dmaTriggerOp s c)

/-- DMA_XFER (R198). -/
def execDmaXfer (c : Chan) (s : State) : Out := ofExcept (dmaXferOp s c)

/-- DMA_COMPLETE (R199). -/
def execDmaComplete (c : Chan) (s : State) : Out := ofExcept (dmaCompleteOp s c)

end Sys2Proof.Machine
end

