-- ==== Sys2Proof/Machine/Interleave.lean ====
section
/-! DEFINITION. Machine/Interleave.lean: ENC_INTERLEAVE (45_interleave.md rules R270 to R275). The encoder
registers are neither read nor written (R270). Each slice is one step (log 23). -/

namespace Sys2Proof.Machine

/-- The analog byte `0x80 | (a >> 1)` of a conversion result (30_encoding.md rule R104). -/
def analogOp (a : Word) : Instr := .outAnalog ((a >>> 1).setWidth 7)

/-- The output operations of one slice: the digital sample in `t` group bytes, if digital channels are
enabled, then one byte per analog sample (R272). -/
def sliceOut (t : Nat) (dig : Option Word) (ana : List Word) : List Instr :=
  (match dig with
    | some v => groupOps t v
    | none => [])
    ++ ana.map analogOp ++ [.thresholdFlush]

/-- The digital sample of slice `k`, if digital channels are enabled (R272). -/
def sliceDigital (s : State) (h : Half) (k : Nat) : Except Fault (Option Word) :=
  if digEn s then
    match digSample s h k with
    | .error e => .error e
    | .ok v => .ok (some v)
  else .ok none

/-- The output operations of slice `k` of a half (R272). -/
def sliceOps (s : State) (h : Half) (k : Nat) : Except Fault (List Instr) :=
  match sliceDigital s h k with
  | .error e => .error e
  | .ok dig =>
    match anaSamples s h k with
    | .error e => .error e
    | .ok ana => .ok (sliceOut (groupCount s) dig ana)

/-- ENC_INTERLEAVE (R272). -/
def execEncInterleave (pos : EncPos) (h : Half) (s : State) : Out :=
  match pos with
  | .start => .next (s.pushA [.encInterleave (.index 0) h])
  | .index k =>
    if k < s.session.samplesPerHalf.toNat then
      withValue (sliceOps s h k) fun ops =>
        .next (s.pushA (ops ++ [.encInterleave (.index (k + 1)) h]))
    else .next (s.pushA [.encInterleave .finish h])
  | .finish => .next (s.pushA [.txflush .start])

end Sys2Proof.Machine
end

