-- ==== Sys2Proof/Machine/Output.lean ====
section
/-! DEFINITION. Machine/Output.lean: the output byte classes (30_encoding.md rules R99 to R108) as operations
of the block: an encoder's bytes go through Emit (46_transmitter.md rule R288), records and responses
through Send, uncounted (rules R297, R298; 40_commands.md rule R135); log 15. -/

namespace Sys2Proof.Machine

/-- OUT_TAGGED (R100). -/
def execOutTagged (run : BitVec 3) (value : Nibble) (s : State) : Out :=
  emitByte s (taggedByte run value)

/-- OUT_NRUN (R101). -/
def execOutNrun (n : BitVec 7) (s : State) : Out := emitByte s (runByte n)

/-- OUT_GROUP (R102). -/
def execOutGroup (d : BitVec 7) (s : State) : Out := emitByte s (dataByte d)

/-- OUT_BRUN_DIRECT (R103). -/
def execOutBrunDirect (n : BitVec 7) (s : State) : Out := emitByte s (runByte n)

/-- OUT_BRUN_STEP (R103). -/
def execOutBrunStep (n : BitVec 7) (s : State) : Out := emitByte s (runByte n)

/-- OUT_ANALOG (R104). -/
def execOutAnalog (m : BitVec 7) (s : State) : Out := emitByte s (dataByte m)

/-- OUT_MARKER (R105; 46_transmitter.md rule R297): sent by SEQ_A, not counted. -/
def execOutMarker (s : State) : Out := .next (s.pushA [sendCall .a abortMarker false])

/-- OUT_RECORD (R106; 46_transmitter.md rule R298): sent by SEQ_A, not counted. -/
def execOutRecord (count : Nat) (s : State) : Out :=
  .next (s.pushA [sendCall .a (completionRecord count) false])

/-- OUT_ACK (R107): sent by SEQ_B. -/
def execOutAck (s : State) : Out := .next (s.pushB [sendCall .b ackBytes false])

/-- OUT_IDENT (R108): sent by SEQ_B. -/
def execOutIdent (s : State) : Out := .next (s.pushB [sendCall .b (identString s.params) false])

end Sys2Proof.Machine
end

