-- ==== Sys2Proof/Machine/Parser.lean ====
section
/-! DEFINITION. Machine/Parser.lean: PARSER_STEP, DISPATCH and ROUTE (40_commands.md rules R131 to R135,
47_scheduler.md rule R317), executed by SEQ_B. -/

namespace Sys2Proof.Machine

/-- The command of a line (30_encoding.md rule R96), run. `decodeLine` answers only the eleven line
commands; the rows after them never are the command of a line. -/
def runLineCommand (i : Instr) (s : State) : Out :=
  match i with
  | .ident args => execIdent args s
  | .rate args => execRate args s
  | .limit args => execLimit args s
  | .ascale args => execAscale args s
  | .fixed args => execFixed args s
  | .cont args => execCont args s
  | .aen args => execAen args s
  | .den args => execDen args s
  | .trig args => execTrig args s
  | .pretrig args => execPretrig args s
  | .reject first args => execReject first args s
  | .reset | .abort | .emptyLine | .outTagged _ _ | .outNrun _ | .outGroup _ | .outBrunDirect _
  | .outBrunStep _ | .outAnalog _ | .outMarker | .outRecord _ | .outAck | .outIdent
  | .parserStep _ | .dispatch _ | .plan | .arm _ | .dmaTrigger _ | .dmaXfer _ | .dmaComplete _
  | .checkHalf _ _ | .overrun _ | .encNibble _ _ | .encByte1 _ _ | .encByte2 _ _ | .encByte4 _ _
  | .encInterleave _ _ | .emit _ | .txflush _ | .thresholdFlush | .send _ _ _ _ | .stop
  | .windDownNormal _ | .windDownAborted _ | .wake _ | .route _ | .softReset => .next s

/-- What transmits a response (R135): the acknowledgement and the identity string are output classes of
their own (30_encoding.md rules R107, R108). -/
def responseOp (p : Params) (rsp : List Byte) : Instr :=
  if rsp = ackBytes then .outAck
  else if rsp = identString p then .outIdent
  else sendCall .b rsp false

/-- The transmission of a non-empty response, exactly once, and its clearing afterwards (R135). -/
def respond (s : State) : State :=
  if s.session.rsp = [] then s
  else s.pushB [responseOp s.params s.session.rsp, .dispatch .clear]

/-- `Dispatch(line)` (R134) and the start of R135. -/
def dispatchLine (line : List Byte) (s : State) : Out :=
  match line with
  | [] => .next s
  | op :: args =>
    andThen (runLineCommand (decodeLine op args) (setRsp s ackBytes)) fun s1 => .next (respond s1)

/-- DISPATCH (R134, R135). -/
def execDispatch (st : DispatchStep) (s : State) : Out :=
  match st with
  | .line text => dispatchLine text s
  | .clear => .next (setRsp s [])

/-- `S.cmd_len <- 0`. -/
def clearCmd (s : State) : State := { s with session.cmdBuf := s.session.cmdBuf.clear }

/-- PARSER_STEP (R131, R133): dispatch at a terminator, empty the buffer on overflow, else accumulate. -/
def execParserStep (c : Byte) (s : State) : Out :=
  if isTerminator c then
    if s.session.cmdBuf.live = [] then execEmptyLine s
    else andThen (dispatchLine s.session.cmdBuf.live s) fun s1 => .next (clearCmd s1)
  else if s.session.cmdBuf.live.length = s.params.cmdbufCapacity then .next (clearCmd s)
  else .next { s with session.cmdBuf := s.session.cmdBuf.push c }

/-- ROUTE (47_scheduler.md rule R317): RESET_CHAR before everything, ABORT_CHAR while a capture is active,
every other character then discarded, else to the parser. -/
def execRoute (c : Byte) (s : State) : Out :=
  if c = Config.resetChar then execReset s
  else if captureActive s then
    if c = s.params.abortChar then execAbort s else .next s
  else execParserStep c s

end Sys2Proof.Machine
end

