-- ==== Sys2Proof/Machine/System.lean ====
section
/-! DEFINITION. Machine/System.lean: WAKE with WaitForSignal (47_scheduler.md rule R320) and SOFT_RESET
(70_reset_and_hazards.md rule R362). -/

namespace Sys2Proof.Machine

/-- WAKE (R320): SEQ_A sets the sticky event. WaitForSignal on SEQ_B takes it, and waits on while it is
not set (log 17). -/
def execWake (st : WakeStep) (s : State) : Out :=
  match st with
  | .signal => .next { s with wakeEvt := true }
  | .wait =>
    if s.wakeEvt then .next { s with wakeEvt := false } else .next (s.pushB [.wake .wait])

/-- SOFT_RESET (R362). -/
def execSoftReset (s : State) : Out := .next (softResetOp s)

end Sys2Proof.Machine
end

