-- ==== Sys2Proof/Machine/Transmit.lean ====
section
/-! DEFINITION. Machine/Transmit.lean: EMIT, TXFLUSH, THRESHOLD_FLUSH and SEND (46_transmitter.md rules R288
to R291). -/

namespace Sys2Proof.Machine

/-- EMIT (R288). -/
def execEmit (b : Byte) (s : State) : Out := emitByte s b

/-- TXFLUSH (R289): a counted Send of the whole buffer, and `TX.len <- 0` after it. -/
def execTxflush (st : FlushStep) (s : State) : Out :=
  match st with
  | .start =>
    if s.tx.buf.live = [] then .next s
    else .next (s.pushA [sendCall .a s.tx.buf.live true, .txflush .done])
  | .done => .next { s with tx.buf := s.tx.buf.clear }

/-- THRESHOLD_FLUSH (R290). -/
def execThresholdFlush (s : State) : Out :=
  if s.params.txFlushThresh ≤ s.tx.buf.live.length then .next (s.pushA [.txflush .start])
  else .next s

/-- SEND (R291): at entry a transport that is not connected drops everything; then one iteration of
the loop a step. -/
def execSend (who : Sequencer) (st : SendStep) (data : List Byte) (counted : Bool) (s : State) : Out :=
  match st with
  | .entry =>
    if s.env.connected then
      if data = [] then .next s else .next (s.push who [.send who .loop data counted])
    else .next s
  | .loop => if data = [] then .next s else .next (sendIteration s who data counted)

end Sys2Proof.Machine
end

