-- ==== Sys2Proof/Machine/WindDown.lean ====
section
/-! DEFINITION. Machine/WindDown.lean: the two ends of a capture (42_dma_capture.md rules R221, R222),
executed by SEQ_A. -/

namespace Sys2Proof.Machine

/-- WIND_DOWN_NORMAL (R221): after StopCapture to Completed; then the flush, the record, and last
`started <- false`. -/
def execWindDownNormal (st : NormalStep) (s : State) : Out :=
  match st with
  | .completed => .next { s with ctrlState := .completed }
  | .flush => .next (s.pushA [.txflush .start, .windDownNormal .record])
  | .record => .next (s.pushA [.outRecord s.session.bytesSentCount, .windDownNormal .finish])
  | .finish => .next (leaveCapture s)

/-- WIND_DOWN_ABORTED (R222), after StopCapture: the marker when due while `aborted`, else the return to
Idle without a record. -/
def execWindDownAborted (st : AbortedStep) (s : State) : Out :=
  match st with
  | .check =>
    if s.session.aborted then
      if markerDue s then .next (s.pushA [.outMarker, .windDownAborted .mark]) else .next s
    else .next (leaveCapture s)
  | .mark =>
    .next { s with tx.nextMarkerUs := s.nowUs + BitVec.ofNat 64 s.params.abortMarkerPeriodUs }

end Sys2Proof.Machine
end

