-- ==== Sys2Proof/Machine/Dispatch.lean ====
section
/-! DEFINITION. Machine/Dispatch.lean: the meaning of every row of spec/opcode_table.json. -/

namespace Sys2Proof.Machine

def exec (i : Instr) (s : State) : Host.Outcome State Fault Refusal :=
  match i with
  | .reset => Sys2Proof.Machine.execReset s
  | .ident args => Sys2Proof.Machine.execIdent args s
  | .rate args => Sys2Proof.Machine.execRate args s
  | .limit args => Sys2Proof.Machine.execLimit args s
  | .ascale args => Sys2Proof.Machine.execAscale args s
  | .fixed args => Sys2Proof.Machine.execFixed args s
  | .cont args => Sys2Proof.Machine.execCont args s
  | .aen args => Sys2Proof.Machine.execAen args s
  | .den args => Sys2Proof.Machine.execDen args s
  | .trig args => Sys2Proof.Machine.execTrig args s
  | .pretrig args => Sys2Proof.Machine.execPretrig args s
  | .reject first args => Sys2Proof.Machine.execReject first args s
  | .abort => Sys2Proof.Machine.execAbort s
  | .emptyLine => Sys2Proof.Machine.execEmptyLine s
  | .outTagged run value => Sys2Proof.Machine.execOutTagged run value s
  | .outNrun n => Sys2Proof.Machine.execOutNrun n s
  | .outGroup d => Sys2Proof.Machine.execOutGroup d s
  | .outBrunDirect n => Sys2Proof.Machine.execOutBrunDirect n s
  | .outBrunStep n => Sys2Proof.Machine.execOutBrunStep n s
  | .outAnalog m => Sys2Proof.Machine.execOutAnalog m s
  | .outMarker => Sys2Proof.Machine.execOutMarker s
  | .outRecord count => Sys2Proof.Machine.execOutRecord count s
  | .outAck => Sys2Proof.Machine.execOutAck s
  | .outIdent => Sys2Proof.Machine.execOutIdent s
  | .parserStep c => Sys2Proof.Machine.execParserStep c s
  | .dispatch st => Sys2Proof.Machine.execDispatch st s
  | .plan => Sys2Proof.Machine.execPlan s
  | .arm st => Sys2Proof.Machine.execArm st s
  | .dmaTrigger c => Sys2Proof.Machine.execDmaTrigger c s
  | .dmaXfer c => Sys2Proof.Machine.execDmaXfer c s
  | .dmaComplete c => Sys2Proof.Machine.execDmaComplete c s
  | .checkHalf st h => Sys2Proof.Machine.execCheckHalf st h s
  | .overrun cause => Sys2Proof.Machine.execOverrun cause s
  | .encNibble pos h => Sys2Proof.Machine.execEncNibble pos h s
  | .encByte1 pos h => Sys2Proof.Machine.execEncByte1 pos h s
  | .encByte2 pos h => Sys2Proof.Machine.execEncByte2 pos h s
  | .encByte4 pos h => Sys2Proof.Machine.execEncByte4 pos h s
  | .encInterleave pos h => Sys2Proof.Machine.execEncInterleave pos h s
  | .emit b => Sys2Proof.Machine.execEmit b s
  | .txflush st => Sys2Proof.Machine.execTxflush st s
  | .thresholdFlush => Sys2Proof.Machine.execThresholdFlush s
  | .send who st data counted => Sys2Proof.Machine.execSend who st data counted s
  | .stop => Sys2Proof.Machine.execStop s
  | .windDownNormal st => Sys2Proof.Machine.execWindDownNormal st s
  | .windDownAborted st => Sys2Proof.Machine.execWindDownAborted st s
  | .wake st => Sys2Proof.Machine.execWake st s
  | .route c => Sys2Proof.Machine.execRoute c s
  | .softReset => Sys2Proof.Machine.execSoftReset s

end Sys2Proof.Machine
end

