-- ==== Sys2Proof/Machine/Scheduler.lean ====
section
/-! DEFINITION. Machine/Scheduler.lean: what each agent does next: the loops of the two sequencers
(47_scheduler.md rules R312, R316), the DMA channels, the peripherals and the host; how the
environment's inputs of a step are taken (10_state.md rule R41); and where a table word is placed so
that the next step runs it. -/

namespace Sys2Proof.Machine

/-- What a step does: run an operation, or move to a state with no operation. -/
inductive Action
  | run (i : Instr) (s : State)
  | done (s : State)
deriving DecidableEq, Repr

/-! ## The environment's inputs -/

/-- `now_us` after some time has passed: 64 bits, never decreasing (46_transmitter.md rule R286; log 6). -/
def advanceTime (t : Time) (elapsed : Nat) : Time :=
  if t.toNat + elapsed < 2 ^ 64 then BitVec.ofNat 64 (t.toNat + elapsed) else BitVec.allOnes 64

/-- The inputs of this step: the next of the script, or the next of `Config.environment`. -/
def takeInputs (s : State) : State :=
  match s.script with
  | e :: rest => { s with env := e, script := rest, nowUs := advanceTime s.nowUs e.elapsedUs }
  | [] =>
    let e := Config.environment s.envCount
    { s with env := e, envCount := s.envCount + 1, nowUs := advanceTime s.nowUs e.elapsedUs }

/-! ## SEQ_A (R312) -/

/-- The `case ctrl_state` of an iteration: the operations it calls, the first of which runs in the same
atomic step as the test (log 18). -/
def iterationOps (s : State) : List Instr :=
  match s.ctrlState with
  | .idle => if armPending s then [.arm .configure] else []
  | .armed => if s.session.sending then [.arm .start] else [.stop, .windDownNormal .completed]
  | .capturing =>
    if s.session.sending then [.checkHalf .poll s.curHalf]
    else [.stop, .windDownNormal .completed]
  | .completed => [.windDownNormal .flush]
  | .aborted => [.stop, .windDownAborted .check]

/-- The start of an iteration: count it, and wake SEQ_B when due (R312, R321). -/
def beginIteration (s : State) : State :=
  let s1 := { s with aIter := s.aIter + 1 }
  { s1 with seqA := ⟨.body, if wakeDue s1 then [.wake .signal] else []⟩ }

/-- SEQ_A's next step. -/
def actionA (s : State) : Action :=
  match s.seqA.todo with
  | i :: rest => .run i { s with seqA.todo := rest }
  | [] =>
    match s.seqA.pos with
    | .top => .done (beginIteration s)
    | .body =>
      match iterationOps s with
      | i :: rest => .run i { s with seqA := ⟨.top, rest⟩ }
      | [] => .done { s with seqA := ⟨.top, []⟩ }

/-! ## SEQ_B (R316) -/

/-- The poll of PORT.rx: one character to ROUTE, if there is one. -/
def takeChar (s : State) : Action :=
  match s.port.rx with
  | c :: rest => .run (.route c) { s with port.rx := rest, seqB := ⟨.top, []⟩ }
  | [] => .done { s with seqB := ⟨.top, []⟩ }

/-- SEQ_B's next step: at the top of an iteration it finds whether a capture is active; if so it waits
for the wake event before it polls. -/
def actionB (s : State) : Action :=
  match s.seqB.todo with
  | i :: rest => .run i { s with seqB.todo := rest }
  | [] =>
    match s.seqB.pos with
    | .top =>
      if captureActive s then .done { s with seqB := ⟨.body, [.wake .wait]⟩ } else takeChar s
    | .body => takeChar s

/-! ## All agents -/

/-- The host sends a character (R316): any time, no flow control. -/
def hostSend (s : State) (c : Byte) : State := { s with port.rx := s.port.rx ++ [c] }

/-- The next step of the agent that moves. -/
def nextAction (s : State) : Action :=
  match s.env.agent with
  | .seqA => actionA s
  | .seqB => actionB s
  | .dma c => .run (.dmaXfer c) s
  | .sampler => .done (samplerDeliver s s.env.sample)
  | .adc => .done (adcDeliver s s.env.conversion)
  | .host => .done (hostSend s s.env.hostChar)

/-! ## Placing a table word (log 16) -/

/-- Inputs under which the given sequencer moves, with an ideal transport (92_eei_decisions.md D51). -/
def inputsFor (who : Agent) : Env :=
  { (default : Env) with
    agent := who, connected := true, connectedLater := true, writeAvailable := 64
    availableAtCall := 64 }

/-- Whether an instruction is one of the output alphabet. -/
def isOutput : Instr → Bool
  | .outTagged _ _ | .outNrun _ | .outGroup _ | .outBrunDirect _ | .outBrunStep _ | .outAnalog _
  | .outMarker | .outRecord _ | .outAck | .outIdent => true
  | _ => false

/-- An operation of the output alphabet as the next one of the sequencer that performs it. -/
def placeOutput (s : State) (i : Instr) : State :=
  match i with
  | .outAck | .outIdent =>
    { s with seqB := ⟨.top, [i]⟩, script := inputsFor .seqB :: s.script }
  | _ => { s with seqA := ⟨.top, [i]⟩, script := inputsFor .seqA :: s.script }

/-- Command characters as the next that SEQ_B takes: all but the last in the command buffer, the last at
the head of PORT.rx. -/
def placeCommand (s : State) (chars : List Byte) : State :=
  { s with
    session.cmdBuf :=
      ⟨chars.dropLast, List.replicate (s.params.cmdbufCapacity - chars.dropLast.length) 0⟩
    port.rx := chars.drop chars.dropLast.length ++ s.port.rx
    seqB := ⟨.top, []⟩
    script := inputsFor .seqB :: s.script }

/-- The characters of a table word as the host sends them: with a terminator unless they end in a control
character or a terminator. -/
def commandChars (bytes : List Byte) : List Byte :=
  match bytes.getLast? with
  | none => bytes
  | some c =>
    if isTerminator c || c == Config.resetChar then bytes else bytes ++ [Config.charCR]

/-- A table word placed where the next step takes its operation. -/
def placeWord (s : State) (nbits w : Nat) : State :=
  let bytes := wordBytes nbits w
  match decodeTableWord nbits w with
  | some i => if isOutput i then placeOutput s i else placeCommand s (commandChars bytes)
  | none => placeCommand s (commandChars bytes)

end Sys2Proof.Machine
end

