-- ==== Sys2Proof/Machine/Step.lean ====
section
/-! DEFINITION. Machine/Step.lean: one step of the machine: one atomic step of the agent that the
environment's inputs name. -/

namespace Sys2Proof.Machine

/-- Carries an action out. -/
def runAction : Action → Host.Outcome State Fault Refusal
  | .run i s => exec i s
  | .done s => .next s

/-- One step. A block whose arena is too small is stuck in reset (60_exceptions.md rule R335). -/
def step (s : State) : Host.Outcome State Fault Refusal :=
  if s.params.arenaOk then runAction (nextAction (takeInputs s)) else .fault .arenaFatal

/-- The word of a row of spec/opcode_table.json placed so that the next step runs it (log 16). -/
def State.withFetchWord (s : State) (nbits w : Nat) : State := placeWord s nbits w

end Sys2Proof.Machine
end

