-- ==== Sys2Proof/Machine/Runs.lean ====
section
/-! DEFINITION. Machine/Runs.lean: the endless runs of the machine under a stream of environment inputs, and
which of them are fair (47_scheduler.md rule R315, 46_transmitter.md rule R293; log 21). -/

namespace Sys2Proof.Machine

/-- Whether the source FIFO of a channel holds a unit (42_dma_capture.md rule R196). -/
def sourceReady (s : State) : Chan → Bool
  | .d0 | .d1 => !s.sampler.fifo.isEmpty
  | .a0 | .a1 => !s.adc.fifo.isEmpty

/-- Whether an agent has an enabled step. SEQ_A always has one (47_scheduler.md rule R314), SEQ_B but while
it waits without the wake event (rule R320), a channel while it is busy and its source holds a unit
(42_dma_capture.md rule R198), a peripheral while it runs (rule R203). The host sends a character when it
chooses to (47_scheduler.md rule R316), and no step is ever due from it (log 21). -/
def enabled (s : State) : Agent → Bool
  | .seqA => true
  | .seqB => s.seqB.todo.head? != some (.wake .wait) || s.wakeEvt
  | .dma c => (s.chan c).busy && sourceReady s c
  | .sampler => s.sampler.running
  | .adc => s.adc.running
  | .host => false

/-- The agent that a sequencer is (00_scope.md rule R12). -/
def agentOf : Sequencer → Agent
  | .a => .seqA
  | .b => .seqB

/-- One step under the given inputs, whatever the script holds (10_state.md rule R41). -/
def stepUnder (e : Env) (s : State) : Out := step { s with script := [e] }

/-- `run` is an endless run of the machine under the inputs `inputs`. -/
def IsRun (inputs : Nat → Env) (run : Nat → State) : Prop :=
  ∀ n, stepUnder (inputs n) (run n) = .next (run (n + 1))

/-- A fair run. Nothing stronger is asked: any number of steps of the others may come first. -/
structure Fair (inputs : Nat → Env) (run : Nat → State) : Prop where
  /-- Every agent that has an enabled step eventually takes one, unless it has none any more (R315). -/
  agents : ∀ n a, enabled (run n) a = true →
    ∃ m, n ≤ m ∧ ((inputs m).agent = a ∨ enabled (run m) a = false)
  /-- In the untimed model Send's loop does not iterate for ever while `write_available` stays 0
  (46_transmitter.md rule R293). -/
  sends : ∀ n who data counted rest, (run n).params.timed = false →
    (run n).todo who = .send who .loop data counted :: rest →
    ∃ m, n ≤ m ∧ ((run m).todo who ≠ .send who .loop data counted :: rest ∨
      ((inputs m).agent = agentOf who ∧ 0 < (inputs m).writeAvailable))

end Sys2Proof.Machine
end

