-- ==== Sys2Proof/Safety.lean ====
section
/-! DEFINITION. Safety.lean: the terms the statements use: the invariants of the storage, of a capture's
flags and of the channel pairs; the encoded stream of a half; one sequencer running alone in a
constant environment. -/

namespace Sys2Proof.Machine

/-! ## Storage (10_state.md rules R29, R35, R37, R43; 20_memory.md rule R60) -/

/-- Every memory of the block keeps its form and its bound. -/
structure StorageInv (s : State) : Prop where
  params_ok : s.params.wf = true
  arena_sorted : Memory.wf s.arena = true
  arena_inside : ∀ cell ∈ s.arena, cell.1 < s.params.arenaCapacity
  tx_fits : s.tx.buf.live.length ≤ s.params.txbufCapacity
  tx_array : s.tx.buf.capacity = s.params.txbufCapacity
  cmd_fits : s.session.cmdBuf.live.length ≤ s.params.cmdbufCapacity
  cmd_array : s.session.cmdBuf.capacity = s.params.cmdbufCapacity
  rsp_fits : s.session.rsp.length ≤ s.params.rspCapacity
  sampler_fits : s.sampler.fifo.length ≤ s.params.samplerFifoDepth
  adc_fits : s.adc.fifo.length ≤ s.params.adcFifoDepth

/-! ## Who does what (10_state.md rule R32; log 1) -/

/-- The operations SEQ_A's work list holds in a run. -/
def opOfA : Instr → Bool
  | .outTagged _ _ | .outNrun _ | .outGroup _ | .outBrunDirect _ | .outBrunStep _ | .outAnalog _
  | .outMarker | .outRecord _ | .checkHalf _ _ | .encNibble _ _ | .encByte1 _ _ | .encByte2 _ _
  | .encByte4 _ _ | .encInterleave _ _ | .emit _ | .txflush _ | .thresholdFlush
  | .send .a _ _ _ | .windDownNormal _ | .windDownAborted _ | .wake .signal => true
  | _ => false

/-- The operations SEQ_B's work list holds in a run. -/
def opOfB : Instr → Bool
  | .outAck | .outIdent | .send .b _ _ false | .dispatch .clear | .wake .wait => true
  | _ => false

/-- The operations that write `ctrl_state`, `started` or the sending of a capture. -/
def isControl : Instr → Bool
  | .checkHalf _ _ | .windDownNormal _ | .windDownAborted _ => true
  | _ => false

/-- Each sequencer has only operations of its own to do. -/
structure OwnOps (s : State) : Prop where
  a_ops : ∀ i ∈ s.seqA.todo, opOfA i = true
  b_ops : ∀ i ∈ s.seqB.todo, opOfB i = true

/-! ## A capture's flags (10_state.md rule R43; 47_scheduler.md rule R313) -/

/-- `ctrl_state`, the flags and what SEQ_A still has to do fit together. -/
structure CaptureInv (s : State) : Prop where
  own : OwnOps s
  one_control : (s.seqA.todo.filter isControl).length ≤ 1
  sending_started : s.session.sending = true → s.session.started = true
  aborted_started : s.session.aborted = true → s.session.started = true
  sending_ctrl : s.session.sending = true → s.ctrlState = .armed ∨ s.ctrlState = .capturing
  aborted_ctrl : s.session.aborted = true → s.ctrlState = .aborted
  busy_started : s.ctrlState ≠ .idle → s.session.started = true
  check_ctrl : ∀ st h, .checkHalf st h ∈ s.seqA.todo → s.ctrlState = .capturing
  enter_ctrl : .windDownNormal .completed ∈ s.seqA.todo →
    (s.ctrlState = .armed ∨ s.ctrlState = .capturing) ∧ s.session.sending = false
  normal_ctrl : ∀ st, st ≠ .completed → .windDownNormal st ∈ s.seqA.todo → s.ctrlState = .completed
  aborted_wind : ∀ st, .windDownAborted st ∈ s.seqA.todo → s.ctrlState = .aborted

/-- The transitions of `ctrl_state` but the soft reset (47_scheduler.md rule R313), a step that keeps
it included. -/
def ctrlTransition (a b : CtrlState) : Bool :=
  match a, b with
  | .idle, .armed | .idle, .completed | .armed, .capturing | .armed, .completed
  | .capturing, .aborted | .capturing, .completed | .completed, .idle | .aborted, .idle => true
  | a, b => a == b

/-- A step in which SEQ_B takes a RESET_CHAR (70_reset_and_hazards.md rule R361): it polls PORT.rx
(47_scheduler.md rule R316) and finds the character there. -/
def takesReset (s : State) : Prop :=
  (takeInputs s).env.agent = .seqB ∧ s.seqB.todo = [] ∧
    (s.seqB.pos = .body ∨ captureActive s = false) ∧ s.port.rx.head? = some Config.resetChar

/-- The registers a capture in progress reads and no rule changes during it: configuration, derived and
geometry registers, and the variant (20_memory.md rule R73). -/
def configuration (v : Session) : Session :=
  { v with
    started := false, sending := false, aborted := false, samplesSentCount := 0
    bytesSentCount := 0, cmdBuf := ⟨[], []⟩, rsp := [], armReqSeq := 0, armAckSeq := 0 }

/-! ## The channel pairs (42_dma_capture.md rule R218) -/

/-- Whether a channel is of the digital pair. -/
def isDigital : Chan → Bool
  | .d0 | .d1 => true
  | .a0 | .a1 => false

/-- Every channel has its unit (10_state.md rule R33), chains inside its pair, and at most one channel of
a pair is busy. -/
structure PairInv (s : State) : Prop where
  own : OwnOps s
  units : ∀ c, (s.chan c).xfer = if isDigital c then .word else .byte
  chain_inside : ∀ c, isDigital (s.chan c).chainTo = isDigital c
  digital_one : ((s.chan .d0).busy && (s.chan .d1).busy) = false
  analog_one : ((s.chan .a0).busy && (s.chan .a1).busy) = false

/-! ## The encoded stream (00_scope.md rule R16; 30_encoding.md rule R111) -/

/-- The bytes that a list of output operations emits. -/
def outBytes (ops : List Instr) : List Byte := ops.flatMap (encode Config.defaultParams)

/-- The loop of ENC_NIBBLE over the words that follow (43_nibble_rle.md rule R232). -/
def nibWords (e : Enc) : List Word → List Instr × Enc
  | [] => ([], e)
  | w :: ws =>
    let r := nibWord e w
    let q := nibWords r.2 ws
    (r.1 ++ q.1, q.2)

/-- ENC_NIBBLE over a half before its end: the seed, once per capture, then the loop (R232). -/
def nibBody (e : Enc) (words : List Word) : List Instr × Enc :=
  match e.seeded, words with
  | false, w :: ws =>
    let r := nibSeed e w
    let q := nibWords r.2 ws
    (r.1 ++ q.1, q.2)
  | _, ws => nibWords e ws

/-- ENC_NIBBLE over a half (R232). -/
def nibHalf (e : Enc) (words : List Word) : List Instr × Enc :=
  let r := nibBody e words
  let q := nibEnd r.2
  (r.1 ++ q.1, q.2)

/-- ENC_NIBBLE over the halves of a capture in time order. -/
def nibCapture (e : Enc) : List (List Word) → List Instr
  | [] => []
  | half :: rest =>
    let r := nibHalf e half
    r.1 ++ nibCapture r.2 rest

/-- The loop of ENC_BYTE over the samples that follow (44_byte_rle.md rule R252). -/
def byteSamples (t : Nat) (e : Enc) : List Word → List Instr × Enc
  | [] => ([], e)
  | v :: vs =>
    let r := byteStep t e v
    let q := byteSamples t r.2 vs
    (r.1 ++ q.1, q.2)

/-- ENC_BYTE over a half before its end (R252). -/
def byteBody (t : Nat) (e : Enc) (samples : List Word) : List Instr × Enc :=
  match e.seeded, samples with
  | false, v :: vs =>
    let r := byteSeed t e v
    let q := byteSamples t r.2 vs
    (r.1 ++ q.1, q.2)
  | _, vs => byteSamples t e vs

/-- ENC_BYTE over a half (R252). -/
def byteHalf (t : Nat) (e : Enc) (samples : List Word) : List Instr × Enc :=
  let r := byteBody t e samples
  let q := byteEnd r.2
  (r.1 ++ q.1, q.2)

/-- ENC_BYTE over the halves of a capture in time order. -/
def byteCapture (t : Nat) (e : Enc) : List (List Word) → List Instr
  | [] => []
  | half :: rest =>
    let r := byteHalf t e half
    r.1 ++ byteCapture t r.2 rest

/-! ## The encodings (30_encoding.md rules R96, R99 to R108) -/

/-- The host commands that stand in a character stream while no capture is active (R96). -/
def isHostCommand : Instr → Bool
  | .reset | .ident _ | .rate _ | .limit _ | .ascale _ | .fixed _ | .cont _ | .aen _ | .den _
  | .trig _ | .pretrig _ | .reject _ _ | .emptyLine => true
  | _ => false

/-- Where each element of the output alphabet can stand (R99). -/
def outContexts : Instr → List OutCtx
  | .outTagged _ _ | .outNrun _ => [.nibble]
  | .outGroup _ => [.byteRle, .groupPlace]
  | .outBrunDirect _ | .outBrunStep _ => [.byteRle]
  | .outAnalog _ => [.analogPlace]
  | .outMarker | .outRecord _ => [.nibble, .byteRle, .groupPlace, .analogPlace]
  | .outAck | .outIdent => [.noCapture]
  | _ => []

/-- The value of the byte that an operation emits (R100 to R104). -/
def emittedByte : Instr → Option Nat
  | .outTagged run value => some (128 + 16 * run.toNat + value.toNat)
  | .outNrun n | .outBrunDirect n | .outBrunStep n => some n.toNat
  | .outGroup d => some (128 + d.toNat)
  | .outAnalog m => some (128 + m.toNat)
  | .emit b => some b.toNat
  | _ => none

/-- The row of ENC_BYTE for a sample width (44_byte_rle.md rule R259). -/
def byteEncoder (wd : Nat) (pos : EncPos) (h : Half) : Instr :=
  if wd = 1 then .encByte1 pos h else if wd = 2 then .encByte2 pos h else .encByte4 pos h

/-! ## One sequencer alone -/

/-- Characters given to the parser one after another; no other agent moves. -/
def feed : List Byte → State → Out
  | [], s => .next s
  | c :: cs, s => andThen (exec (.parserStep c) s) (feed cs)

/-- At most `n` operations of a sequencer's work list, one after another, in an environment that does
not change; no other agent moves. -/
def drain (who : Sequencer) : Nat → State → Out
  | 0, s => .next s
  | n + 1, s =>
    match s.todo who with
    | [] => .next s
    | i :: rest => andThen (exec i (s.setTodo who rest)) (drain who n)

/-- The ideal transport of 92_eei_decisions.md D51: connected, always room for a byte, and a write of
what there is room for is accepted whole (46_transmitter.md rule R285). -/
structure IdealTransport (s : State) : Prop where
  connected : s.env.connected = true
  room : 0 < s.env.writeAvailable
  at_call : s.env.writeAvailable ≤ s.env.availableAtCall

/-- The digital half `h` holds the words `ws` (20_memory.md rule R63). -/
structure HalfHolds (s : State) (h : Half) (ws : List Word) : Prop where
  size : s.session.samplesPerHalf.toNat = 8 * ws.length
  words : ∀ i (hi : i < ws.length),
    memRead s ((s.session.digOff h).toNat + 4 * i) 4 = .ok ws[i]

end Sys2Proof.Machine
end

