-- ==== Sys2Proof/Certificates/Slice0/Obligations.lean ====
section
/-! DEFINITION. Certificates/Slice0/Obligations.lean: the statements for the provers. Each docstring names
the rule of spec/ it formalises, or the rules it rests on. -/

open Sys2Proof Sys2Proof.Machine

/-! ## The two encodings (spec/30_encoding.md) -/

/-- R94: a non-empty string of decimal digits of any length is read as the number it spells, most
significant digit first; every other string as none. -/
def Obligations.ParseDecReadsDigits : Prop :=
  (∀ ds : List Nat, ds ≠ [] → (∀ d ∈ ds, d < 10) →
    parseDec (ds.map fun d => BitVec.ofNat 8 (0x30 + d)) = some (Nat.ofDigits 10 ds.reverse)) ∧
  (∀ s : List Byte, (s = [] ∨ ∃ c ∈ s, c.toNat < 0x30 ∨ 0x39 < c.toNat) → parseDec s = none)

/-- R95: the enable digit is `0` or `1`, the channel is one or two decimal digits of value at most 31,
and everything else is malformed. -/
def Obligations.EnableChannelOperands : Prop :=
  parseEnableChannel [] = none ∧
  (∀ e, parseEnableChannel [e] = none) ∧
  (∀ (e : Byte) args, e ≠ 0x30 → e ≠ 0x31 → parseEnableChannel (e :: args) = none) ∧
  (∀ (e : Byte) args, 2 < args.length → parseEnableChannel (e :: args) = none) ∧
  (∀ (e : Byte) (args : List Byte), (∃ c ∈ args, c.toNat < 0x30 ∨ 0x39 < c.toNat) →
    parseEnableChannel (e :: args) = none) ∧
  (∀ (on : Bool) (d : Nat), d < 10 →
    parseEnableChannel [if on then 0x31 else 0x30, BitVec.ofNat 8 (0x30 + d)] = some (on, d)) ∧
  (∀ (on : Bool) (d1 d2 : Nat), d1 < 10 → d2 < 10 →
    parseEnableChannel [if on then 0x31 else 0x30, BitVec.ofNat 8 (0x30 + d1),
        BitVec.ofNat 8 (0x30 + d2)] =
      if 10 * d1 + d2 ≤ 31 then some (on, 10 * d1 + d2) else none)

/-- R90 to R93, R96: decoding the encoding of a host command gives the command back, with every
argument string its line admits, whatever follows it; the two control characters also decode while a
capture is active. -/
def Obligations.CommandDecodesEncoded : Prop :=
  ∀ (p : Params) (i : Instr) (rest : List Byte), p.wf = true → i.wf p = true →
    (isHostCommand i = true → decodeCommand p (encode p i ++ rest) = .ok (i, rest)) ∧
    ((i = .reset ∨ i = .abort) → decodeControl p (encode p i ++ rest) = .ok (i, rest))

/-- R99 to R108: decoding the encoding of an element of the output alphabet gives it back, in every
context where it can stand, with every operand its class admits, whatever follows it. -/
def Obligations.OutputDecodesEncoded : Prop :=
  ∀ (p : Params) (i : Instr) (ctx : OutCtx) (rest : List Byte), i.wf p = true →
    ctx ∈ outContexts i → decodeOut p ctx (encode p i ++ rest) = .ok (i, rest)

/-- R90 to R93: a line ends at CR or at LF and is the command of its first character; RESET_CHAR inside
a line is the reset; a line longer than CMDBUF_CAPACITY is no instruction. -/
def Obligations.LineEndsAtTerminator : Prop :=
  ∀ (p : Params) (op : Byte) (args rest : List Byte), p.wf = true → isLineChar op = true →
    args.all isLineChar = true →
    (args.length + 1 ≤ p.cmdbufCapacity →
      decodeCommand p (op :: args ++ 0x0D :: rest) = .ok (decodeLine op args, rest) ∧
      decodeCommand p (op :: args ++ 0x0A :: rest) = .ok (decodeLine op args, rest) ∧
      decodeCommand p (op :: args ++ 0x2A :: rest) = .ok (.reset, rest)) ∧
    (p.cmdbufCapacity < args.length + 1 →
      decodeCommand p (op :: args ++ rest) = .error .lineTooLong)

/-- R96: the map from first character to command; every other first character selects REJECT. -/
def Obligations.OpcodeMapIsTable : Prop :=
  ∀ args : List Byte,
    decodeLine 0x69 args = .ident args ∧ decodeLine 0x52 args = .rate args ∧
    decodeLine 0x4C args = .limit args ∧ decodeLine 0x61 args = .ascale args ∧
    decodeLine 0x46 args = .fixed args ∧ decodeLine 0x43 args = .cont args ∧
    decodeLine 0x41 args = .aen args ∧ decodeLine 0x44 args = .den args ∧
    decodeLine 0x74 args = .trig args ∧ decodeLine 0x70 args = .pretrig args ∧
    ∀ op : Byte, op ∉ ([0x69, 0x52, 0x4C, 0x61, 0x46, 0x43, 0x41, 0x44, 0x74, 0x70] : List Byte) →
      decodeLine op args = .reject op args

/-- Words written out from the encodings decode to the instructions they stand for (R96, R100 to R107). -/
def Obligations.WrittenWordsDecode : Prop :=
  decodeTableWord 8 0x2A = some .reset ∧
  decodeTableWord 8 0x52 = some (.rate []) ∧
  decodeTableWord 24 0x303144 = some (.den [0x31, 0x30]) ∧
  decodeTableWord 24 0x212121 = some .outMarker ∧
  decodeTableWord 8 0xB9 = some (.outTagged 3 9) ∧
  (∀ rest, decodeOut Config.defaultParams .byteRle (0x50 :: rest) = .ok (.outBrunStep 80, rest)) ∧
  (∀ rest, decodeOut Config.defaultParams .analogPlace (0xC0 :: rest) = .ok (.outAnalog 64, rest))

/-- R109: every byte an encoder emits is 0x30 or above, and a byte that carries a sample has bit 7
set. -/
def Obligations.EncodersAvoidReservedBytes : Prop :=
  (∀ (e : Enc) (w : Word), ∀ b ∈ outBytes (nibSeed e w).1 ++ outBytes (nibWord e w).1
      ++ outBytes (nibEnd e).1, 0x30 ≤ b.toNat) ∧
  (∀ (t : Nat) (e : Enc) (v : Word), ∀ b ∈ outBytes (byteSeed t e v).1
      ++ outBytes (byteStep t e v).1 ++ outBytes (byteEnd e).1, 0x30 ≤ b.toNat) ∧
  (∀ (t : Nat) (dig : Option Word) (ana : List Word), ∀ b ∈ outBytes (sliceOut t dig ana),
      0x80 ≤ b.toNat) ∧
  (∀ (t : Nat) (v : Word), ∀ b ∈ outBytes (groupOps t v), 0x80 ≤ b.toNat) ∧
  (∀ (run : BitVec 3) (value : Nibble), ∀ b ∈ outBytes [.outTagged run value], 0x80 ≤ b.toNat) ∧
  (∀ n : Nat, ∀ b ∈ outBytes (runOps n), 0x30 ≤ b.toNat ∧ b.toNat ≤ 0x7F) ∧
  (∀ run : Word, ∀ b ∈ outBytes (flushLong run).1, 0x30 ≤ b.toNat ∧ b.toNat ≤ 0x7F)

/-! ## Host commands (spec/40_commands.md) -/

/-- R93, R134, R135, R137, R140, R145, R146: the commands that write no register but the response: IDENT answers
`SRPICO,A031D21,` and the version and ASCALE the analog scale string, for any argument; TRIG and PRETRIG
leave the response at the `*` that a dispatched line starts with; REJECT leaves none; an empty line has
no effect. That a dispatched line queues its acknowledgement as OUT_ACK and then the clearing of the
response is the model's choice (log 15, 19). -/
def Obligations.ResponseOnlyCommands : Prop :=
  ∀ (args : List Byte) (s : State),
    exec (.ident args) s = .next { s with session.rsp :=
      [0x53, 0x52, 0x50, 0x49, 0x43, 0x4F, 0x2C, 0x41, 0x30, 0x33, 0x31, 0x44, 0x32, 0x31, 0x2C]
        ++ s.params.protocolVersion } ∧
    exec (.ascale args) s = .next { s with session.rsp := s.params.analogScaleStr } ∧
    exec (.trig args) s = .next s ∧ exec (.pretrig args) s = .next s ∧
    (∀ first, exec (.reject first args) s = .next { s with session.rsp := [] }) ∧
    exec .emptyLine s = .next s ∧
    (∀ op : Byte, op = 0x74 ∨ op = 0x70 →
      exec (.dispatch (.line (op :: args))) s =
        .next (State.pushB { s with session.rsp := [0x2A] } [.outAck, .dispatch .clear])) ∧
    (∀ op : Byte, op ∉ opcodeLetters →
      exec (.dispatch (.line (op :: args))) s = .next { s with session.rsp := [] })

/-- R138: RATE stores a value between 5000 and 120000016 as given, and otherwise changes nothing; the
response stays as it is. -/
def Obligations.RateStoresValueInRange : Prop :=
  ∀ (args : List Byte) (s : State),
    (∀ v, parseDec args = some v → 5000 ≤ v → v ≤ 120000016 →
      ∃ t, exec (.rate args) s = .next t ∧ t.session.sampleRate.toNat = v ∧
        t = { s with session.sampleRate := t.session.sampleRate }) ∧
    (∀ v, parseDec args = some v → v < 5000 ∨ 120000016 < v → exec (.rate args) s = .next s) ∧
    (parseDec args = none → exec (.rate args) s = .next s)

/-- R139: LIMIT stores a value between 1 and 2^32 - 1 as given, and otherwise changes nothing but the
response, which becomes empty. -/
def Obligations.LimitStoresPositiveValue : Prop :=
  ∀ (args : List Byte) (s : State),
    (∀ v, parseDec args = some v → 1 ≤ v → v ≤ 4294967295 →
      ∃ t, exec (.limit args) s = .next t ∧ t.session.numSamples.toNat = v ∧
        t = { s with session.numSamples := t.session.numSamples }) ∧
    (∀ v, parseDec args = some v → v = 0 ∨ 4294967295 < v →
      exec (.limit args) s = .next { s with session.rsp := [] }) ∧
    (parseDec args = none → exec (.limit args) s = .next { s with session.rsp := [] })

/-- R143, R144: AEN and DEN write the one bit of the channel, and reject a malformed operand or a channel
the device does not have, with an empty response and nothing else changed. -/
def Obligations.MaskCommandsWriteOneBit : Prop :=
  ∀ (args : List Byte) (s : State),
    (∀ on ch, parseEnableChannel args = some (on, ch) →
      (ch < 3 → ∃ t, exec (.aen args) s = .next t ∧
        t = { s with session.analogMask := t.session.analogMask } ∧
        ∀ i, i < 3 → t.session.analogMask.getLsbD i =
          if i = ch then on else s.session.analogMask.getLsbD i) ∧
      (3 ≤ ch → exec (.aen args) s = .next { s with session.rsp := [] }) ∧
      (ch < 21 → ∃ t, exec (.den args) s = .next t ∧
        t = { s with session.digitalMask := t.session.digitalMask } ∧
        ∀ i, i < 21 → t.session.digitalMask.getLsbD i =
          if i = ch then on else s.session.digitalMask.getLsbD i) ∧
      (21 ≤ ch → exec (.den args) s = .next { s with session.rsp := [] })) ∧
    (parseEnableChannel args = none →
      exec (.aen args) s = .next { s with session.rsp := [] } ∧
      exec (.den args) s = .next { s with session.rsp := [] })

/-- R141, R142: FIXED and CONT write `continuous`, run PLAN, raise the arm request and leave no response;
with no request pending before, one is pending after. -/
def Obligations.StartCommandsPlanAndRequest : Prop :=
  ∀ (args : List Byte) (s : State), s.params.arenaOk = true →
    ∀ (cont : Bool), ∃ u t,
      exec .plan { s with session.continuous := cont } = .next u ∧
      exec (if cont then .cont args else .fixed args) s = .next t ∧
      t = { u with session.armReqSeq := s.session.armReqSeq + 1, session.rsp := [] } ∧
      t.session.continuous = cont ∧ t.session.armAckSeq = s.session.armAckSeq ∧
      (armPending s = false → armPending t = true)

/-- R317, R318: RESET_CHAR goes to the soft reset in every state; while a capture is active ABORT_CHAR
clears `sending` and `aborted` and every other character is discarded; otherwise the character goes to
the parser. -/
def Obligations.RoutingOfCharacters : Prop :=
  ∀ (c : Byte) (s : State),
    exec .abort s = .next { s with session.sending := false, session.aborted := false } ∧
    exec (.route 0x2A) s = exec .softReset s ∧
    (c ≠ 0x2A → captureActive s = true → c = s.params.abortChar →
      exec (.route c) s = .next { s with session.sending := false, session.aborted := false }) ∧
    (c ≠ 0x2A → captureActive s = true → c ≠ s.params.abortChar → exec (.route c) s = .next s) ∧
    (c ≠ 0x2A → captureActive s = false → exec (.route c) s = exec (.parserStep c) s)

/-- R131, R133: the three cases of one parser step, for every character but RESET_CHAR, which never comes
to the parser (R91). -/
def Obligations.ParserStepCases : Prop :=
  ∀ (c : Byte) (s : State), c ≠ 0x2A →
    ((c = 0x0D ∨ c = 0x0A) → s.session.cmdBuf.live = [] → exec (.parserStep c) s = .next s) ∧
    ((c = 0x0D ∨ c = 0x0A) → s.session.cmdBuf.live ≠ [] →
      exec (.parserStep c) s =
        andThen (exec (.dispatch (.line s.session.cmdBuf.live)) s) fun t =>
          .next { t with session.cmdBuf := t.session.cmdBuf.clear }) ∧
    (c ≠ 0x0D → c ≠ 0x0A → s.session.cmdBuf.live.length = s.params.cmdbufCapacity →
      exec (.parserStep c) s = .next { s with session.cmdBuf := s.session.cmdBuf.clear }) ∧
    (c ≠ 0x0D → c ≠ 0x0A → s.session.cmdBuf.live.length ≠ s.params.cmdbufCapacity →
      exec (.parserStep c) s = .next { s with session.cmdBuf :=
        ⟨s.session.cmdBuf.live ++ [c], s.session.cmdBuf.stale.drop 1⟩ })

/-- R131: the characters of a line that fits, RESET_CHAR not among them (R91), given to the parser one after
another, stand in the command buffer in their order, and nothing else has changed; the terminator after
them dispatches exactly that line. -/
def Obligations.ParserAccumulatesLine : Prop :=
  ∀ (line : List Byte) (s : State), s.session.cmdBuf.live = [] →
    (∀ c ∈ line, c ≠ 0x0D ∧ c ≠ 0x0A ∧ c ≠ 0x2A) → line.length ≤ s.params.cmdbufCapacity →
    let t := { s with session.cmdBuf := ⟨line, s.session.cmdBuf.stale.drop line.length⟩ }
    feed line s = .next t ∧
      (line ≠ [] → ∀ c : Byte, c = 0x0D ∨ c = 0x0A →
        feed (line ++ [c]) s = andThen (exec (.dispatch (.line line)) t) fun u =>
          .next { u with session.cmdBuf := u.session.cmdBuf.clear })

/-- R134, R135: a dispatched line sets the response to `*`, runs the command of its first character, and
queues the transmission of a non-empty response, once, and its clearing after it. That the two are queued
as operations of their own, a `*` and the identity string through their output rows, is the model's
choice (log 15, 19, 27). -/
def Obligations.DispatchRunsCommandAndAnswers : Prop :=
  ∀ (s : State),
    (∀ (op : Byte) (args : List Byte) (t : State),
      exec (decodeLine op args) { s with session.rsp := [0x2A] } = .next t →
      (t.session.rsp = [] → exec (.dispatch (.line (op :: args))) s = .next t) ∧
      (t.session.rsp ≠ [] → ∃ i, exec (.dispatch (.line (op :: args))) s =
          .next (t.pushB [i, .dispatch .clear]) ∧
        ∀ u : State, u.params = t.params → (i = .send .b .entry t.session.rsp false ∨
          exec i u = .next (u.pushB [.send .b .entry t.session.rsp false])))) ∧
    exec (.dispatch .clear) s = .next { s with session.rsp := [] }

/-! ## PLAN (spec/41_buffer_planner.md) -/

/-- R171 to R173: the request made even, clamped and rounded, and the derived counts; what PLAN does not
write (R170). -/
def Obligations.PlanNormalisesAndDerives : Prop :=
  ∀ s : State, s.params.arenaOk = true →
    ∃ v : Session, exec .plan s = .next { s with session := v } ∧
      v.sampleRate.toNat = s.session.sampleRate.toNat - s.session.sampleRate.toNat % 2 ∧
      v.numSamples.toNat = 4 * ((min (max s.session.numSamples.toNat 16) 0xFFFFFFFC + 3) / 4) ∧
      (∃ h, h ≤ 21 ∧ (0 < h → s.session.digitalMask.getLsbD (h - 1) = true) ∧
        (∀ i, h ≤ i → s.session.digitalMask.getLsbD i = false) ∧
        v.digitalCount.toNat = h ∧ v.txBytesPerSample.toNat = (h + 6) / 7 ∧
        v.dnps.toNat = if h = 0 then 0 else if h ≤ 4 then 1 else if h ≤ 8 then 2
          else if h ≤ 16 then 4 else 8) ∧
      v.analogCount.toNat = (s.session.analogMask.getLsbD 0).toNat
        + (s.session.analogMask.getLsbD 1).toNat + (s.session.analogMask.getLsbD 2).toNat ∧
      v.analogMask = s.session.analogMask ∧ v.digitalMask = s.session.digitalMask ∧
      v.started = s.session.started ∧ v.sending = s.session.sending ∧
      v.continuous = s.session.continuous ∧ v.aborted = s.session.aborted ∧
      v.samplesSentCount = s.session.samplesSentCount ∧
      v.bytesSentCount = s.session.bytesSentCount ∧ v.cmdBuf = s.session.cmdBuf ∧
      v.rsp = s.session.rsp ∧ v.armReqSeq = s.session.armReqSeq ∧
      v.armAckSeq = s.session.armAckSeq

/-- R174 to R176, R179 to R181: the geometry and the variant, from the derived registers that PLAN has
written. -/
def Obligations.PlanSetsGeometry : Prop :=
  ∀ (s t : State), s.params.arenaOk = true → s.params.arenaCapacity < 2 ^ 32 →
    exec .plan s = .next t →
    let v := t.session
    let dn := v.dnps.toNat
    let ac := v.analogCount.toNat
    let base := Nat.lcm (if dn = 0 then 1 else 8 / Nat.gcd 8 dn)
      (if ac = 0 then 1 else 4 / Nat.gcd 4 ac)
    let chunk := base * s.params.chunkMult
    let dig := chunk * dn / 2
    let ana := chunk * ac
    let fit := s.params.arenaCapacity / (dig + ana) / 2 * 2
    let need := ((v.numSamples.toNat + chunk - 1) / chunk + 1) / 2 * 2
    let masked := !v.continuous && decide (need < fit)
    let perHalf := (if masked then need else fit) / 2
    if dn = 0 ∧ ac = 0 then
      v.digHalfSize = 0 ∧ v.anaHalfSize = 0 ∧ v.digHalf0Off = 0 ∧ v.digHalf1Off = 0 ∧
        v.anaHalf0Off = 0 ∧ v.anaHalf1Off = 0 ∧ v.samplesPerHalf = 0 ∧
        v.maskOverrunAsBenign = false ∧ v.variant = .none
    else
      v.digHalfSize.toNat = perHalf * dig ∧ v.anaHalfSize.toNat = perHalf * ana ∧
        v.digHalf0Off.toNat = 0 ∧ v.digHalf1Off.toNat = perHalf * dig ∧
        v.anaHalf0Off.toNat = 2 * (perHalf * dig) ∧
        v.anaHalf1Off.toNat = 2 * (perHalf * dig) + perHalf * ana ∧
        v.samplesPerHalf.toNat = perHalf * chunk ∧ v.maskOverrunAsBenign = masked ∧
        v.variant = (if 0 < ac then .interleave else if dn = 1 then .nibble
          else if dn = 2 then .byte1 else if dn = 4 then .byte2 else .byte4)

/-- R182: what PLAN guarantees of every geometry it makes. -/
def Obligations.PlanGuarantees : Prop :=
  ∀ (s t : State), s.params.arenaOk = true → s.params.arenaCapacity < 2 ^ 32 →
    exec .plan s = .next t →
    let v := t.session
    4 ∣ v.digHalfSize.toNat ∧ 4 ∣ v.anaHalfSize.toNat ∧ 4 ∣ v.digHalf0Off.toNat ∧
      4 ∣ v.digHalf1Off.toNat ∧ 4 ∣ v.anaHalf0Off.toNat ∧ 4 ∣ v.anaHalf1Off.toNat ∧
      2 * v.digHalfSize.toNat + 2 * v.anaHalfSize.toNat ≤ s.params.arenaCapacity ∧
      2 * v.digHalfSize.toNat = v.samplesPerHalf.toNat * v.dnps.toNat ∧
      v.anaHalfSize.toNat = v.samplesPerHalf.toNat * v.analogCount.toNat ∧
      (v.dnps.toNat ≠ 0 ∨ v.analogCount.toNat ≠ 0 → 1 ≤ v.samplesPerHalf.toNat) ∧
      (v.dnps.toNat = 1 → 8 ∣ v.samplesPerHalf.toNat) ∧
      (v.maskOverrunAsBenign = true → v.numSamples.toNat ≤ 2 * v.samplesPerHalf.toNat)

/-- R178, R335: an arena smaller than two of the largest chunks is refused by PLAN and by the commands
that call it, and no step of the machine is taken under it; the names of the stops are the model's
(log 13, 14). -/
def Obligations.TooSmallArenaStops : Prop :=
  ∀ (s : State) (args : List Byte),
    (s.params.arenaOk = true ↔
      1 ≤ s.params.chunkMult ∧ 2 * 28 * s.params.chunkMult ≤ s.params.arenaCapacity) ∧
    (s.params.arenaOk = false →
      exec .plan s = .refused .parameterChoice ∧
      exec (.fixed args) s = .refused .parameterChoice ∧
      exec (.cont args) s = .refused .parameterChoice ∧ step s = .fault .arenaFatal)

/-! ## The arena (spec/20_memory.md) -/

/-- R62, R63: every aligned read inside the arena answers, little-endian, whatever the bytes hold; where
each digital sample of a half lies. -/
def Obligations.ArenaReadsAndSampleLayout : Prop :=
  ∀ (s : State),
    (∀ a : Nat, a + 1 ≤ s.params.arenaCapacity →
      memRead s a 1 = .ok ((readByte s.arena a).setWidth 32)) ∧
    (∀ a : Nat, a + 2 ≤ s.params.arenaCapacity → 2 ∣ a →
      memRead s a 2 = .ok ((readByte s.arena (a + 1) ++ readByte s.arena a).setWidth 32)) ∧
    (∀ a : Nat, a + 4 ≤ s.params.arenaCapacity → 4 ∣ a →
      memRead s a 4 = .ok (readByte s.arena (a + 3) ++ readByte s.arena (a + 2)
        ++ readByte s.arena (a + 1) ++ readByte s.arena a)) ∧
    (∀ (h : Half) (k : Nat),
      (s.session.dnps = .n1 → ∀ w, memRead s ((s.session.digOff h).toNat + 4 * (k / 8)) 4 = .ok w →
        digSample s h k = .ok ((w >>> (4 * (k % 8))) &&& 0xF)) ∧
      (s.session.dnps = .n2 → digSample s h k = memRead s ((s.session.digOff h).toNat + k) 1) ∧
      (s.session.dnps = .n4 → digSample s h k = memRead s ((s.session.digOff h).toNat + 2 * k) 2) ∧
      (s.session.dnps = .n8 → digSample s h k = memRead s ((s.session.digOff h).toNat + 4 * k) 4))

/-- R65, R343: the conditions of rule R343, each in every operation where it stops the machine: the
accesses of the arena (memory, a transfer, the encoders), the configuration of each of the four channels
by ARM, a reload of 0 at ARM, at a trigger and at a completion, the write address of a busy channel in
step 3b for both kinds (U21), and an emitted byte below 0x30. -/
def Obligations.ModelFaultsStop : Prop :=
  ∀ (s : State),
    (∀ a n v, s.params.arenaCapacity < a + n →
      memRead s a n = .error (.arenaRange a) ∧ memWrite s a n v = .error (.arenaRange a)) ∧
    (∀ a n v, a + n ≤ s.params.arenaCapacity → ¬ n ∣ a →
      memRead s a n = .error (.arenaAlign a) ∧ memWrite s a n v = .error (.arenaAlign a)) ∧
    (∀ c, (s.chan c).busy = true → (isDigital c = true → s.sampler.fifo ≠ []) →
      (isDigital c = false → s.adc.fifo ≠ []) →
      let a := (s.chan c).writeAddr.toNat
      let n := (s.chan c).xfer.bytes
      (s.params.arenaCapacity < a + n → exec (.dmaXfer c) s = .fault (.arenaRange a)) ∧
      (a + n ≤ s.params.arenaCapacity → ¬ n ∣ a → exec (.dmaXfer c) s = .fault (.arenaAlign a))) ∧
    (∀ h e,
      (s.enc.seeded = false → memRead s (s.session.digOff h).toNat 4 = .error e →
        exec (.encNibble .start h) s = .fault e) ∧
      (∀ i, i < s.session.samplesPerHalf.toNat / 8 →
        memRead s ((s.session.digOff h).toNat + 4 * i) 4 = .error e →
        exec (.encNibble (.index i) h) s = .fault e) ∧
      (∀ wd, wd = 1 ∨ wd = 2 ∨ wd = 4 →
        (s.enc.seeded = false → memRead s (s.session.digOff h).toNat wd = .error e →
          exec (byteEncoder wd .start h) s = .fault e) ∧
        (∀ k, k < s.session.samplesPerHalf.toNat →
          memRead s ((s.session.digOff h).toNat + k * wd) wd = .error e →
          exec (byteEncoder wd (.index k) h) s = .fault e)) ∧
      (∀ k, k < s.session.samplesPerHalf.toNat →
        (digEn s = true → digSample s h k = .error e →
          exec (.encInterleave (.index k) h) s = .fault e) ∧
        (∀ j, (digEn s = true → ∃ d, digSample s h k = .ok d) → j < s.session.analogCount.toNat →
          let base := (s.session.anaOff h).toNat + k * s.session.analogCount.toNat
          (∀ i, i < j → ∃ v, memRead s (base + i) 1 = .ok v) → memRead s (base + j) 1 = .error e →
          exec (.encInterleave (.index k) h) s = .fault e))) ∧
    (∀ c, (s.chan c).busy = false → (s.chan c).reload = 0 →
      exec (.dmaTrigger c) s = .fault (.dmaReloadZero c) ∧
      ∀ x, x ≠ c → (s.chan x).chainTo = c → exec (.dmaComplete x) s = .fault (.dmaReloadZero c)) ∧
    (s.session.variant ≠ .none →
      let arm := exec (.arm .configure) s
      let words := s.session.digHalfSize / 4
      let digitalOk := digEn s = true →
        (s.chan .d0).busy = false ∧ (s.chan .d1).busy = false ∧ words ≠ 0
      (digEn s = true →
        ((s.chan .d0).busy = true → arm = .fault (.dmaConfigureBusy .d0)) ∧
        ((s.chan .d0).busy = false → (s.chan .d1).busy = true →
          arm = .fault (.dmaConfigureBusy .d1)) ∧
        ((s.chan .d0).busy = false → (s.chan .d1).busy = false → words = 0 →
          arm = .fault (.dmaReloadZero .d0))) ∧
      (digitalOk → anaEn s = true →
        ((s.chan .a0).busy = true → arm = .fault (.dmaConfigureBusy .a0)) ∧
        ((s.chan .a0).busy = false → (s.chan .a1).busy = true →
          arm = .fault (.dmaConfigureBusy .a1)) ∧
        ((s.chan .a0).busy = false → (s.chan .a1).busy = false → s.session.anaHalfSize = 0 →
          arm = .fault (.dmaReloadZero .a0)))) ∧
    (∀ h,
      (digEn s = true → (s.chan (digChan h)).busy = true →
        exec (.checkHalf .restore h) s = .fault (.dmaAddrBusy (digChan h))) ∧
      ((digEn s = true → (s.chan (digChan h)).busy = false) → anaEn s = true →
        (s.chan (anaChan h)).busy = true →
        exec (.checkHalf .restore h) s = .fault (.dmaAddrBusy (anaChan h)))) ∧
    (∀ i n, emittedByte i = some n → n < 0x30 → exec i s = .fault (.emitReserved (BitVec.ofNat 8 n)))

/-! ## The capture controller (spec/42_dma_capture.md) -/

/-- R193, R195: ARM with no channel enabled clears what ARM clears, starts nothing, and completes at once;
the history `encoded` (R16) starts anew (log 10). -/
def Obligations.ArmWithNothingEnabledCompletes : Prop :=
  ∀ s : State, s.session.variant = .none →
    exec (.arm .configure) s = .next { s with
      session := { s.session with
        armAckSeq := s.session.armReqSeq, samplesSentCount := 0, bytesSentCount := 0
        aborted := false, started := true, sending := false }
      enc := ⟨false, 0, 0, 0, 0⟩
      tx := { s.tx with buf := s.tx.buf.clear }
      curHalf := .half0, encoded := [], ctrlState := .completed }

/-- R193: ARM_CONFIGURE of a capture with a channel enabled: the handshake, the flags and the counters;
each enabled pair configured, half 0 chained to half 1 and started; and ARM_START, which starts the
peripherals of the enabled kinds in one step (R194). The history `encoded` (R16) starts anew, which is the
model's own (log 10). That a disabled pair keeps all its registers follows the rule's pseudocode (log 32). -/
def Obligations.ArmConfiguresThenStarts : Prop :=
  ∀ s : State,
    (s.session.variant ≠ .none →
      (digEn s = true → (s.chan .d0).busy = false ∧ (s.chan .d1).busy = false ∧
        s.session.digHalfSize / 4 ≠ 0) →
      (anaEn s = true → (s.chan .a0).busy = false ∧ (s.chan .a1).busy = false ∧
        s.session.anaHalfSize ≠ 0) →
      exec (.arm .configure) s = .next { s with
        session := { s.session with
          armAckSeq := s.session.armReqSeq, samplesSentCount := 0, bytesSentCount := 0
          aborted := false, started := true, sending := true }
        enc := ⟨false, 0, 0, 0, 0⟩
        tx := { s.tx with buf := s.tx.buf.clear }
        curHalf := .half0, encoded := [], ctrlState := .armed
        sampler := { s.sampler with rxStall := false, fifo := [] }
        adc := { s.adc with fifoOverflow := false, fifo := [] }
        dma :=
          { d0 := if digEn s then
              { s.dma.d0 with
                busy := true, writeAddr := s.session.digHalf0Off, chainTo := .d1
                count := s.session.digHalfSize / 4, reload := s.session.digHalfSize / 4 }
              else s.dma.d0
            d1 := if digEn s then
              { s.dma.d1 with
                writeAddr := s.session.digHalf1Off, chainTo := .d1, count := 0
                reload := s.session.digHalfSize / 4 }
              else s.dma.d1
            a0 := if anaEn s then
              { s.dma.a0 with
                busy := true, writeAddr := s.session.anaHalf0Off, chainTo := .a1
                count := s.session.anaHalfSize, reload := s.session.anaHalfSize }
              else s.dma.a0
            a1 := if anaEn s then
              { s.dma.a1 with
                writeAddr := s.session.anaHalf1Off, chainTo := .a1, count := 0
                reload := s.session.anaHalfSize }
              else s.dma.a1 } }) ∧
    exec (.arm .start) s = .next { s with
      sampler := { s.sampler with running := s.sampler.running || digEn s }
      adc := { s.adc with running := s.adc.running || anaEn s }
      ctrlState := .capturing }

/-- R197, R199, R200: a trigger loads the count of an idle channel and is ignored by a busy one; a
completion clears `busy` and triggers the chain target unless it is the channel itself. -/
def Obligations.TriggerAndCompletion : Prop :=
  ∀ (c : Chan) (s : State),
    ((s.chan c).busy = true → exec (.dmaTrigger c) s = .next s) ∧
    ((s.chan c).busy = false → (s.chan c).reload ≠ 0 →
      ∃ t, exec (.dmaTrigger c) s = .next t ∧ t = { s with dma := t.dma } ∧
        ∀ x, t.chan x =
          if x = c then { s.chan c with count := (s.chan c).reload, busy := true } else s.chan x) ∧
    ((s.chan c).chainTo = c →
      ∃ t, exec (.dmaComplete c) s = .next t ∧ t = { s with dma := t.dma } ∧
        ∀ x, t.chan x = if x = c then { s.chan c with busy := false } else s.chan x) ∧
    (∀ p, (s.chan c).chainTo = p → p ≠ c → (s.chan p).busy = true →
      ∃ t, exec (.dmaComplete c) s = .next t ∧ t = { s with dma := t.dma } ∧
        ∀ x, t.chan x = if x = c then { s.chan c with busy := false } else s.chan x) ∧
    (∀ p, (s.chan c).chainTo = p → p ≠ c → (s.chan p).busy = false → (s.chan p).reload ≠ 0 →
      ∃ t, exec (.dmaComplete c) s = .next t ∧ t = { s with dma := t.dma } ∧
        ∀ x, t.chan x = if x = c then { s.chan c with busy := false }
          else if x = p then { s.chan p with count := (s.chan p).reload, busy := true }
          else s.chan x)

/-- R198: one transfer pops one unit of the channel's source, stores it at the write address and nowhere
else, advances the address, and counts; the last transfer of a block completes the channel in the same
step. -/
def Obligations.TransferMovesOneUnit : Prop :=
  ∀ (c : Chan) (s : State),
    (s.chan c).xfer = (if isDigital c then .word else .byte) →
    (∀ (u : Word) (rest : List Word), isDigital c = true → (s.chan c).busy = true →
      s.sampler.fifo = u :: rest →
      (s.chan c).writeAddr.toNat + 4 ≤ s.params.arenaCapacity → 4 ∣ (s.chan c).writeAddr.toNat →
      ∃ t, t = { s with sampler.fifo := rest, arena := t.arena, dma := t.dma } ∧
        (∀ x, readByte t.arena x =
          if x = (s.chan c).writeAddr.toNat then u.setWidth 8
          else if x = (s.chan c).writeAddr.toNat + 1 then (u >>> 8).setWidth 8
          else if x = (s.chan c).writeAddr.toNat + 2 then (u >>> 16).setWidth 8
          else if x = (s.chan c).writeAddr.toNat + 3 then (u >>> 24).setWidth 8
          else readByte s.arena x) ∧
        (∀ x, t.chan x = if x = c then
            { s.chan c with
              writeAddr := (s.chan c).writeAddr + 4, count := (s.chan c).count - 1 }
          else s.chan x) ∧
        exec (.dmaXfer c) s = if (s.chan c).count = 1 then exec (.dmaComplete c) t else .next t) ∧
    (∀ (b : Byte) (rest : List Byte), isDigital c = false → (s.chan c).busy = true →
      s.adc.fifo = b :: rest → (s.chan c).writeAddr.toNat + 1 ≤ s.params.arenaCapacity →
      ∃ t, t = { s with adc.fifo := rest, arena := t.arena, dma := t.dma } ∧
        (∀ x, readByte t.arena x =
          if x = (s.chan c).writeAddr.toNat then b else readByte s.arena x) ∧
        (∀ x, t.chan x = if x = c then
            { s.chan c with
              writeAddr := (s.chan c).writeAddr + 1, count := (s.chan c).count - 1 }
          else s.chan x) ∧
        exec (.dmaXfer c) s = if (s.chan c).count = 1 then exec (.dmaComplete c) t else .next t)

/-- R206, R207: while a channel of an enabled kind of the half is busy, the poll changes no state at all;
else CHECK_HALF goes on to step 3a. -/
def Obligations.PollOfBusyHalfChangesNothing : Prop :=
  ∀ (h : Half) (s : State),
    ((digEn s = true ∧ (s.chan (digChan h)).busy = true) ∨
        (anaEn s = true ∧ (s.chan (anaChan h)).busy = true) →
      exec (.checkHalf .poll h) s = .next s) ∧
    (¬ ((digEn s = true ∧ (s.chan (digChan h)).busy = true) ∨
        (anaEn s = true ∧ (s.chan (anaChan h)).busy = true)) →
      exec (.checkHalf .poll h) s =
        .next { s with seqA.todo := .checkHalf .detach h :: s.seqA.todo })

/-- R208, R209, R215, R216: step 3a chains the half's channels to themselves, step 3b restores their write
addresses, step 5 chains the other half's channels back to them, each for the enabled kinds and touching
nothing else; on Ready the current half is complemented. -/
def Obligations.HalfIsDetachedRestoredRechained : Prop :=
  ∀ (h : Half) (s : State),
    (∃ t, exec (.checkHalf .detach h) s = .next t ∧
      t = { s with dma := t.dma, seqA.todo := .checkHalf .restore h :: s.seqA.todo } ∧
      ∀ c, t.chan c = if (digEn s = true ∧ c = digChan h) ∨ (anaEn s = true ∧ c = anaChan h) then
        { s.chan c with chainTo := c } else s.chan c) ∧
    ((digEn s = true → (s.chan (digChan h)).busy = false) →
      (anaEn s = true → (s.chan (anaChan h)).busy = false) →
      ∃ t, exec (.checkHalf .restore h) s = .next t ∧
        t = { s with dma := t.dma, seqA.todo := .checkHalf .encode h :: s.seqA.todo } ∧
        ∀ c, t.chan c =
          if digEn s = true ∧ c = digChan h then { s.chan c with writeAddr := s.session.digOff h }
          else if anaEn s = true ∧ c = anaChan h then
            { s.chan c with writeAddr := s.session.anaOff h }
          else s.chan c) ∧
    (∃ t, exec (.checkHalf .rechain h) s = .next t ∧
      t = { s with dma := t.dma, seqA.todo := .checkHalf .ready h :: s.seqA.todo } ∧
      ∀ c, t.chan c =
        if digEn s = true ∧ c = digChan h.other then { s.chan c with chainTo := digChan h }
        else if anaEn s = true ∧ c = anaChan h.other then { s.chan c with chainTo := anaChan h }
        else s.chan c) ∧
    exec (.checkHalf .ready h) s = .next { s with curHalf := s.curHalf.other }

/-- R210, R211: step 3c calls the encoder of the variant and then counts the half; step 3d clears
`sending` when a fixed-length target has been reached, and never in continuous mode. -/
def Obligations.HalfIsEncodedAndCounted : Prop :=
  ∀ (h : Half) (s : State),
    (∃ enc, exec (.checkHalf .encode h) s =
        .next { s with seqA.todo := enc ++ .checkHalf .account h :: s.seqA.todo } ∧
      (s.session.variant = .nibble → enc = [.encNibble .start h]) ∧
      (s.session.variant = .byte1 → enc = [.encByte1 .start h]) ∧
      (s.session.variant = .byte2 → enc = [.encByte2 .start h]) ∧
      (s.session.variant = .byte4 → enc = [.encByte4 .start h]) ∧
      (s.session.variant = .interleave → enc = [.encInterleave .start h])) ∧
    exec (.checkHalf .account h) s = .next { s with
      session.samplesSentCount := s.session.samplesSentCount + s.session.samplesPerHalf.toNat
      seqA.todo := .checkHalf .target h :: s.seqA.todo } ∧
    (s.session.continuous = false → s.session.numSamples.toNat ≤ s.session.samplesSentCount →
      exec (.checkHalf .target h) s = .next { s with
        session.sending := false, seqA.todo := .checkHalf .test h :: s.seqA.todo }) ∧
    (s.session.continuous = true ∨ s.session.samplesSentCount < s.session.numSamples.toNat →
      exec (.checkHalf .target h) s =
        .next { s with seqA.todo := .checkHalf .test h :: s.seqA.todo })

/-- R212 to R214, R336, R339: step 4 raises Overrun when the capture is not masked and an enabled kind
shows a stall, an overflow or an idle peer, the cause being the first in that order; Overrun writes
`aborted`, `sending`, `ctrl_state` and the time of the next marker, sends the marker, and leaves step 5
out; else CHECK_HALF goes on to step 5. That the time of the next marker is a sum modulo 2^64 is the
model's reading (log 8). -/
def Obligations.OverrunTestAndEntry : Prop :=
  ∀ (h : Half) (s : State),
    let stall := digEn s && s.sampler.rxStall
    let overflow := anaEn s && s.adc.fifoOverflow
    let idle := (digEn s && !(s.chan (digChan h.other)).busy)
      || (anaEn s && !(s.chan (anaChan h.other)).busy)
    let entered := { s with
      session := { s.session with aborted := true, sending := false }
      ctrlState := .aborted
      tx := { s.tx with
        nextMarkerUs := s.nowUs + BitVec.ofNat 64 s.params.abortMarkerPeriodUs }
      seqA := { s.seqA with todo := .outMarker :: s.seqA.todo } }
    (∀ cause, exec (.overrun cause) s = .next entered) ∧
    (s.session.maskOverrunAsBenign = false → (stall || overflow || idle) = true →
      exec (.checkHalf .test h) s = .next entered ∧
      overrunCause s h = some (if stall then .samplerStall else if overflow then .adcOverflow
        else .peerIdle)) ∧
    (s.session.maskOverrunAsBenign = true ∨ (stall || overflow || idle) = false →
      exec (.checkHalf .test h) s =
        .next { s with seqA.todo := .checkHalf .rechain h :: s.seqA.todo })

/-- R191, R192, R220: StopCapture stops both peripherals, empties their FIFOs, and makes every channel idle
with no chain trigger; it is idempotent. That `count` becomes 0 is rule R191's pseudocode, which a test
vector contradicts, and the model's choice between the two (log 11). -/
def Obligations.StopIdlesPeripheralsAndChannels : Prop :=
  ∀ s : State, ∃ t, exec .stop s = .next t ∧
    t = { s with
      sampler := { s.sampler with running := false, fifo := [] }
      adc := { s.adc with running := false, fifo := [] }
      dma := t.dma } ∧
    (∀ c, t.chan c = { s.chan c with busy := false, count := 0 }) ∧
    exec .stop t = .next t

/-- R221, R222: the two ends of a capture, step by step; in the untimed model whether the marker is due is a
free choice. That the time of the next marker is a sum modulo 2^64 is the model's reading (log 8). -/
def Obligations.WindDownSteps : Prop :=
  ∀ s : State,
    let due := if s.params.timed then decide (s.tx.nextMarkerUs ≤ s.nowUs) else s.env.sendMarker
    exec (.windDownNormal .completed) s = .next { s with ctrlState := .completed } ∧
    exec (.windDownNormal .flush) s = .next { s with
      seqA.todo := .txflush .start :: .windDownNormal .record :: s.seqA.todo } ∧
    exec (.windDownNormal .record) s = .next { s with
      seqA.todo := .outRecord s.session.bytesSentCount :: .windDownNormal .finish :: s.seqA.todo } ∧
    exec (.windDownNormal .finish) s =
      .next { s with session.started := false, ctrlState := .idle } ∧
    (s.session.aborted = true → due = true →
      exec (.windDownAborted .check) s = .next { s with
        seqA.todo := .outMarker :: .windDownAborted .mark :: s.seqA.todo }) ∧
    (s.session.aborted = true → due = false →
      exec (.windDownAborted .check) s = .next s) ∧
    (s.session.aborted = false → exec (.windDownAborted .check) s =
      .next { s with session.started := false, ctrlState := .idle }) ∧
    exec (.windDownAborted .mark) s = .next { s with
      tx.nextMarkerUs := s.nowUs + BitVec.ofNat 64 s.params.abortMarkerPeriodUs }

/-! ## The encoders (spec/43_nibble_rle.md to 45_interleave.md) -/

/-- R236, R256: what a pending run is written as: in both alphabets the run bytes stand for exactly the
run, but for the at most seven samples that the nibble alphabet leaves for a tagged byte; the longest
code is chained first, and EmitRun needs at most two bytes more. -/
def Obligations.RunBytesStandForTheRun : Prop :=
  (∀ run : Word,
    ((outBytes (flushLong run).1).map fun b => (b.toNat - 47) * 8).sum + (flushLong run).2.toNat
        = run.toNat ∧
      (flushLong run).2.toNat < 8 ∧
      (outBytes (flushLong run).1).take (run.toNat / 640) = List.replicate (run.toNat / 640) 127 ∧
      (outBytes (flushLong run).1).length ≤ run.toNat / 640 + 1) ∧
  (∀ n : Nat, ((outBytes (runOps n)).map runOf).sum = n ∧
      (outBytes (runOps n)).take (n / 1568) = List.replicate (n / 1568) 127 ∧
      (outBytes (runOps n)).length ≤ n / 1568 + 2)

/-- R232 to R237: the parts of ENC_NIBBLE: the seed, a word of the coarse path, a word of the fine path,
and the end of the half, with the encoder registers after each and nothing else changed. That the registers
of an iteration are written in one step, before its queued bytes are emitted, is the model's choice
(log 23). -/
def Obligations.NibbleEncoderParts : Prop :=
  ∀ (h : Half) (s : State),
    (s.enc.seeded = true →
      exec (.encNibble .start h) s =
        .next { s with seqA.todo := .encNibble (.index 0) h :: s.seqA.todo }) ∧
    (∀ w, s.enc.seeded = false → memRead s (s.session.digOff h).toNat 4 = .ok w →
      exec (.encNibble .start h) s = .next { s with
        enc := { s.enc with seeded := true, runCnt := 0, nibLast := nib w 7, wordLast := w }
        seqA.todo := .outTagged 0 (nib w 0) :: .outTagged 0 (nib w 1) :: .outTagged 0 (nib w 2)
          :: .outTagged 0 (nib w 3) :: .outTagged 0 (nib w 4) :: .outTagged 0 (nib w 5)
          :: .outTagged 0 (nib w 6) :: .outTagged 0 (nib w 7) :: .encNibble (.index 1) h
          :: s.seqA.todo }) ∧
    (∀ i w, i < s.session.samplesPerHalf.toNat / 8 →
      memRead s ((s.session.digOff h).toNat + 4 * i) 4 = .ok w →
      (w = s.enc.wordLast ∧ (∀ j, j < 8 → nib w j = nib w 0) →
        exec (.encNibble (.index i) h) s = .next { s with
          enc := { s.enc with runCnt := s.enc.runCnt + 8 }
          seqA.todo := .encNibble (.index (i + 1)) h :: s.seqA.todo }) ∧
      (¬ (w = s.enc.wordLast ∧ (∀ j, j < 8 → nib w j = nib w 0)) →
        exec (.encNibble (.index i) h) s = .next { s with
          enc := { (nibSteps s.enc (nibbles w)).2 with wordLast := w }
          seqA.todo := (nibSteps s.enc (nibbles w)).1 ++ .encNibble (.index (i + 1)) h
            :: s.seqA.todo })) ∧
    (∀ i, s.session.samplesPerHalf.toNat / 8 ≤ i →
      exec (.encNibble (.index i) h) s =
        .next { s with seqA.todo := .encNibble .finish h :: s.seqA.todo }) ∧
    exec (.encNibble .finish h) s = .next { s with
      enc := { s.enc with runCnt := 0 }
      seqA.todo := (flushLong s.enc.runCnt).1
        ++ (if (flushLong s.enc.runCnt).2 = 0 then []
          else [.outTagged (((flushLong s.enc.runCnt).2 - 1).setWidth 3) s.enc.nibLast])
        ++ .txflush .start :: s.seqA.todo } ∧
    (∀ (e : Enc) (v : Nibble),
      (v = e.nibLast → nibStep e v = ([], { e with runCnt := e.runCnt + 1 })) ∧
      (v ≠ e.nibLast → nibStep e v =
        ((flushLong e.runCnt).1
            ++ [.outTagged ((flushLong e.runCnt).2.setWidth 3) v, .thresholdFlush],
          { e with runCnt := 0, nibLast := v }))) ∧
    (∀ e : Enc, nibSteps e [] = ([], e)) ∧
    (∀ (e : Enc) (v : Nibble) (vs : List Nibble), nibSteps e (v :: vs) =
      ((nibStep e v).1 ++ (nibSteps (nibStep e v).2 vs).1, (nibSteps (nibStep e v).2 vs).2))

/-- R252 to R255, R257, R259: the parts of ENC_BYTE at each of the three widths. That the registers of an
iteration are written in one step, before its queued bytes are emitted, is the model's choice (log 23). -/
def Obligations.ByteEncoderParts : Prop :=
  ∀ (wd : Nat) (h : Half) (s : State), wd = 1 ∨ wd = 2 ∨ wd = 4 →
    let t := s.session.txBytesPerSample.toNat
    let base := (s.session.digOff h).toNat
    (s.enc.seeded = true →
      exec (byteEncoder wd .start h) s =
        .next { s with seqA.todo := byteEncoder wd (.index 0) h :: s.seqA.todo }) ∧
    (∀ v, s.enc.seeded = false → memRead s base wd = .ok v →
      exec (byteEncoder wd .start h) s = .next { s with
        enc := { s.enc with seeded := true, runCnt := 0, valLast := v }
        seqA.todo := groupOps t v ++ byteEncoder wd (.index 1) h :: s.seqA.todo }) ∧
    (∀ k v, k < s.session.samplesPerHalf.toNat → memRead s (base + k * wd) wd = .ok v →
      (v = s.enc.valLast →
        exec (byteEncoder wd (.index k) h) s = .next { s with
          enc := { s.enc with runCnt := s.enc.runCnt + 1 }
          seqA.todo := byteEncoder wd (.index (k + 1)) h :: s.seqA.todo }) ∧
      (v ≠ s.enc.valLast →
        exec (byteEncoder wd (.index k) h) s = .next { s with
          enc := { s.enc with runCnt := 0, valLast := v }
          seqA.todo := runOps s.enc.runCnt.toNat ++ groupOps t v
            ++ .thresholdFlush :: byteEncoder wd (.index (k + 1)) h :: s.seqA.todo })) ∧
    (∀ k, s.session.samplesPerHalf.toNat ≤ k →
      exec (byteEncoder wd (.index k) h) s =
        .next { s with seqA.todo := byteEncoder wd .finish h :: s.seqA.todo }) ∧
    exec (byteEncoder wd .finish h) s = .next { s with
      enc := { s.enc with runCnt := 0 }
      seqA.todo := runOps s.enc.runCnt.toNat ++ .txflush .start :: s.seqA.todo }

/-- R272: ENC_INTERLEAVE slice by slice: the group bytes of the digital sample when digital channels are
enabled, one analog byte per enabled analog channel in ascending order (R64), the threshold flush; the
encoder registers are neither read nor written (R270). -/
def Obligations.InterleaveEncoderParts : Prop :=
  ∀ (h : Half) (s : State),
    let n := s.session.analogCount.toNat
    exec (.encInterleave .start h) s =
      .next { s with seqA.todo := .encInterleave (.index 0) h :: s.seqA.todo } ∧
    (∀ (k : Nat) (d : Word) (as : List Word), k < s.session.samplesPerHalf.toNat →
      (digEn s = true → digSample s h k = .ok d) → as.length = n →
      (∀ j (hj : j < as.length),
        memRead s ((s.session.anaOff h).toNat + k * n + j) 1 = .ok as[j]) →
      exec (.encInterleave (.index k) h) s = .next { s with
        seqA.todo := (if digEn s then groupOps s.session.txBytesPerSample.toNat d else [])
          ++ (as.map fun a => .outAnalog ((a >>> 1).setWidth 7))
          ++ .thresholdFlush :: .encInterleave (.index (k + 1)) h :: s.seqA.todo }) ∧
    (∀ k, s.session.samplesPerHalf.toNat ≤ k →
      exec (.encInterleave (.index k) h) s =
        .next { s with seqA.todo := .encInterleave .finish h :: s.seqA.todo }) ∧
    exec (.encInterleave .finish h) s =
      .next { s with seqA.todo := .txflush .start :: s.seqA.todo }

/-- R111, R238: what ENC_NIBBLE emits over the halves of a capture decodes to the samples of the halves,
for any division of the samples into halves. -/
def Obligations.NibbleStreamDecodes : Prop :=
  ∀ halves : List (List Word), (∀ ws ∈ halves, ws ≠ [] ∧ 8 * ws.length < 2 ^ 32) →
    decodeNibble (outBytes (nibCapture Enc.reset halves)) = some (halves.flatten.flatMap nibbles)

/-- R111, R257: what ENC_BYTE emits over the halves of a capture decodes to the samples modulo 2^(7T). -/
def Obligations.ByteStreamDecodes : Prop :=
  ∀ (t : Nat) (halves : List (List Word)), 1 ≤ t →
    (∀ vs ∈ halves, vs ≠ [] ∧ vs.length < 2 ^ 32) →
    decodeByte (outBytes (byteCapture t Enc.reset halves)) t =
      some (halves.flatten.map fun v => v.toNat % 2 ^ (7 * t))

/-- R111, R272: what ENC_INTERLEAVE emits decodes, by counting, to the digital samples modulo 2^(7T) and
the conversion results without their least significant bit. -/
def Obligations.InterleaveStreamDecodes : Prop :=
  ∀ (t n : Nat) (slices : List (Word × List Word)), 1 ≤ n → (∀ x ∈ slices, x.2.length = n) →
    (∀ x ∈ slices, ∀ a ∈ x.2, a.toNat < 256) →
    decodeInterleave
        (outBytes (slices.flatMap fun x => sliceOut t (if t = 0 then none else some x.1) x.2)) t n =
      slices.map fun x => (x.1.toNat % 2 ^ (7 * t), x.2.map fun a => (a &&& 0xFE).toNat)

/-- R210, R238, R296: ENC_NIBBLE over a half that holds the words, run by SEQ_A over an ideal transport from
an empty transmit buffer, ends with the buffer empty and with exactly the half's encoded bytes added to
the wire and to the counter. -/
def Obligations.NibbleHalfReachesWire : Prop :=
  ∀ (s : State) (h : Half) (ws : List Word) (rest : List Instr),
    1 ≤ s.params.txbufCapacity → IdealTransport s → s.tx.buf.live = [] → HalfHolds s h ws →
    ws ≠ [] → s.seqA.todo = .encNibble .start h :: rest →
    ∃ n t, drain .a n s = .next t ∧ t.seqA.todo = rest ∧ t.tx.buf.live = [] ∧
      t.port.wire = s.port.wire ++ outBytes (nibHalf s.enc ws).1 ∧
      t.session.bytesSentCount =
        s.session.bytesSentCount + (outBytes (nibHalf s.enc ws).1).length ∧
      t.enc = (nibHalf s.enc ws).2 ∧ t.arena = s.arena ∧ t.ctrlState = s.ctrlState

/-! ## The transmitter (spec/46_transmitter.md) -/

/-- R16, R288: an emitted byte, of any class, goes to the end of the transmit buffer when there is room; a
full buffer is flushed first, and then the byte is emitted. That the history `encoded` keeps the byte is
the model's own (log 10), and so is that the six output byte rows perform Emit (log 15). -/
def Obligations.EmissionAppendsOrFlushes : Prop :=
  ∀ (i : Instr) (n : Nat) (s : State), emittedByte i = some n → 0x30 ≤ n →
    (s.tx.buf.live.length ≠ s.params.txbufCapacity →
      exec i s = .next { s with
        tx.buf := ⟨s.tx.buf.live ++ [BitVec.ofNat 8 n], s.tx.buf.stale.drop 1⟩
        encoded := s.encoded ++ [BitVec.ofNat 8 n] }) ∧
    (s.tx.buf.live.length = s.params.txbufCapacity →
      exec i s = .next { s with
        seqA.todo := .txflush .start :: .emit (BitVec.ofNat 8 n) :: s.seqA.todo })

/-- R105 to R108, R297, R298: the marker and the record are sent by SEQ_A, the acknowledgement and the
identity string by SEQ_B, none of them counted, and nothing else changes; under well-formed parameters every
response is ASCII text without CR or LF. -/
def Obligations.RecordsAndResponsesAreSent : Prop :=
  ∀ (s : State),
    exec .outMarker s = .next { s with
      seqA.todo := .send .a .entry [0x21, 0x21, 0x21] false :: s.seqA.todo } ∧
    (∀ ds : List Nat, ds ≠ [] → (∀ d ∈ ds, d < 10) → (ds.head? = some 0 → ds.length = 1) →
      exec (.outRecord (Nat.ofDigits 10 ds.reverse)) s = .next { s with
        seqA.todo := .send .a .entry
          (0x24 :: (ds.map fun d => BitVec.ofNat 8 (0x30 + d)) ++ [0x2B]) false :: s.seqA.todo }) ∧
    exec .outAck s = .next { s with
      seqB.todo := .send .b .entry [0x2A] false :: s.seqB.todo } ∧
    exec .outIdent s = .next { s with
      seqB.todo := .send .b .entry
        ([0x53, 0x52, 0x50, 0x49, 0x43, 0x4F, 0x2C, 0x41, 0x30, 0x33, 0x31, 0x44, 0x32, 0x31, 0x2C]
          ++ s.params.protocolVersion) false :: s.seqB.todo } ∧
    (s.params.wf = true →
      ∀ c ∈ ackBytes ++ identString s.params ++ s.params.analogScaleStr,
        c.toNat < 0x80 ∧ c ≠ 0x0D ∧ c ≠ 0x0A)

/-- R289, R290: TXFLUSH sends the whole buffer, counted, and then empties it; an empty buffer is left
alone; THRESHOLD_FLUSH flushes at TX_FLUSH_THRESH bytes. -/
def Obligations.FlushSendsWholeBuffer : Prop :=
  ∀ s : State,
    (s.tx.buf.live = [] → exec (.txflush .start) s = .next s) ∧
    (s.tx.buf.live ≠ [] → exec (.txflush .start) s = .next { s with
      seqA.todo := .send .a .entry s.tx.buf.live true :: .txflush .done :: s.seqA.todo }) ∧
    exec (.txflush .done) s = .next { s with tx.buf := s.tx.buf.clear } ∧
    (s.params.txFlushThresh ≤ s.tx.buf.live.length →
      exec .thresholdFlush s = .next { s with seqA.todo := .txflush .start :: s.seqA.todo }) ∧
    (s.tx.buf.live.length < s.params.txFlushThresh → exec .thresholdFlush s = .next s)

/-- R291: Send drops everything when the transport is not connected; else each iteration hands over some
bytes in order, or drops the rest on disconnection or timeout, or goes round again. In the untimed model the
timeout is a free choice (R293); that a parameter selects the model is the model's own (log 7), and so is
reading the time difference modulo 2^64 (log 8). -/
def Obligations.SendIterates : Prop :=
  ∀ (who : Sequencer) (data : List Byte) (counted : Bool) (s : State),
    let timedOut := if s.params.timed then
      decide (s.params.txTimeoutUs < (s.nowUs - s.tx.lastWriteUs).toNat) else s.env.giveUp
    (s.env.connected = false → exec (.send who .entry data counted) s = .next s) ∧
    (s.env.connected = true → data ≠ [] →
      exec (.send who .entry data counted) s = .next (s.push who [.send who .loop data counted])) ∧
    (∀ st, data = [] → exec (.send who st data counted) s = .next s) ∧
    (data ≠ [] → 0 < s.env.writeAvailable →
      ∃ k, k ≤ min data.length s.env.writeAvailable ∧
        (min data.length s.env.writeAvailable ≤ s.env.availableAtCall →
          k = min data.length s.env.writeAvailable) ∧
        exec (.send who .loop data counted) s =
          let t := { s with
            port := { s.port with wire := s.port.wire ++ data.take k }
            session := { s.session with
              bytesSentCount := s.session.bytesSentCount + if counted then k else 0 }
            tx := { s.tx with lastWriteUs := if 0 < k then s.nowUs else s.tx.lastWriteUs } }
          .next (if k = data.length then t
            else t.push who [.send who .loop (data.drop k) counted])) ∧
    (data ≠ [] → s.env.writeAvailable = 0 →
      s.env.connectedLater = false ∨ timedOut = true →
      exec (.send who .loop data counted) s = .next s) ∧
    (data ≠ [] → s.env.writeAvailable = 0 → s.env.connectedLater = true → timedOut = false →
      exec (.send who .loop data counted) s = .next (s.push who [.send who .loop data counted]))

/-- R293: over an ideal transport a Send call of either sequencer delivers all its data in order and ends,
having changed nothing but the wire, the counter if it counts, and the time of the last write. -/
def Obligations.IdealSendDeliversAll : Prop :=
  ∀ (s : State) (who : Sequencer) (data : List Byte) (counted : Bool) (rest : List Instr),
    IdealTransport s → s.todo who = .send who .entry data counted :: rest →
    ∃ n, drain who n s = .next { s.setTodo who rest with
      port.wire := s.port.wire ++ data
      session.bytesSentCount := s.session.bytesSentCount + if counted then data.length else 0
      tx.lastWriteUs := if data = [] then s.tx.lastWriteUs else s.nowUs }

/-! ## Sequencers, wake, reset (spec/47_scheduler.md, 70_reset_and_hazards.md) -/

/-- R320: Wake sets the sticky event; WaitForSignal takes it, and waits on while it is not set, changing
nothing: the model's form of "SEQ_B takes no step" (log 17). In every fair run (R315; log 21) the wait of
SEQ_B ends once the event is set, whatever the other agents do. -/
def Obligations.WakeIsSticky : Prop :=
  (∀ s : State,
    exec (.wake .signal) s = .next { s with wakeEvt := true } ∧
    (s.wakeEvt = true → exec (.wake .wait) s = .next { s with wakeEvt := false }) ∧
    (s.wakeEvt = false →
      exec (.wake .wait) s = .next { s with seqB.todo := .wake .wait :: s.seqB.todo })) ∧
  (∀ (inputs : Nat → Env) (run : Nat → State), IsRun inputs run → Fair inputs run →
    ∀ (n : Nat) (rest : List Instr), OwnOps (run n) → (run n).wakeEvt = true →
      (run n).seqB.todo = .wake .wait :: rest →
      ∃ m, n ≤ m ∧ (inputs m).agent = .seqB ∧ (run m).seqB.todo = .wake .wait :: rest ∧
        (run (m + 1)).seqB.todo = rest ∧ (run (m + 1)).wakeEvt = false)

/-- R362, R363: the soft reset, by either operation: every register at its reset value, the arena, the
bytes of the two buffers, the transport's queues and the time surviving. -/
def Obligations.SoftResetRestoresResetValues : Prop :=
  ∀ s : State, ∃ t, exec .reset s = .next t ∧ exec .softReset s = .next t ∧
    t.session.sampleRate = 5000 ∧ t.session.numSamples = 10 ∧ t.session.analogMask = 0 ∧
    t.session.digitalMask = 0 ∧ t.session.analogCount = 0 ∧ t.session.digitalCount = 0 ∧
    t.session.dnps = .n0 ∧ t.session.txBytesPerSample = 0 ∧ t.session.digHalf0Off = 0 ∧
    t.session.digHalf1Off = 0 ∧ t.session.anaHalf0Off = 0 ∧ t.session.anaHalf1Off = 0 ∧
    t.session.digHalfSize = 0 ∧ t.session.anaHalfSize = 0 ∧ t.session.samplesPerHalf = 0 ∧
    t.session.maskOverrunAsBenign = false ∧ t.session.variant = .none ∧
    t.session.started = false ∧ t.session.sending = false ∧ t.session.continuous = false ∧
    t.session.aborted = false ∧ t.session.samplesSentCount = 0 ∧ t.session.bytesSentCount = 0 ∧
    t.session.cmdBuf = ⟨[], s.session.cmdBuf.live ++ s.session.cmdBuf.stale⟩ ∧
    t.session.rsp = [] ∧ t.session.armReqSeq = 0 ∧ t.session.armAckSeq = 0 ∧
    t.ctrlState = .idle ∧ t.curHalf = .half0 ∧ t.aIter = 0 ∧
    (∀ c, t.chan c = ⟨false, 0, c, 0, 0, if isDigital c then .word else .byte⟩) ∧
    t.sampler = ⟨false, false, []⟩ ∧ t.adc = ⟨false, false, []⟩ ∧
    t.enc = ⟨false, 0, 0, 0, 0⟩ ∧ t.tx.buf = ⟨[], s.tx.buf.live ++ s.tx.buf.stale⟩ ∧
    t.tx.lastWriteUs = 0 ∧ t.tx.nextMarkerUs = 0 ∧ t.wakeEvt = false ∧
    t.seqA = ⟨.top, []⟩ ∧ t.seqB = ⟨.top, []⟩ ∧
    t.arena = s.arena ∧ t.port = s.port ∧ t.nowUs = s.nowUs ∧ t.params = s.params

/-- R42, R360: the state after power-on reset, with the values the spec gives; what the spec leaves open
(log 2, 3, 4, 5, 6, 10) is not stated here. -/
def Obligations.PowerOnResetValues : Prop :=
  ∀ p : Params, ∃ s, s = State.resetWith p ∧
    s.session.sampleRate = 5000 ∧ s.session.numSamples = 10 ∧ s.session.analogMask = 0 ∧
    s.session.digitalMask = 0 ∧ s.session.analogCount = 0 ∧ s.session.digitalCount = 0 ∧
    s.session.dnps = .n0 ∧ s.session.txBytesPerSample = 0 ∧ s.session.digHalf0Off = 0 ∧
    s.session.digHalf1Off = 0 ∧ s.session.anaHalf0Off = 0 ∧ s.session.anaHalf1Off = 0 ∧
    s.session.digHalfSize = 0 ∧ s.session.anaHalfSize = 0 ∧ s.session.samplesPerHalf = 0 ∧
    s.session.maskOverrunAsBenign = false ∧ s.session.variant = .none ∧
    s.session.started = false ∧ s.session.sending = false ∧ s.session.continuous = false ∧
    s.session.aborted = false ∧ s.session.samplesSentCount = 0 ∧ s.session.bytesSentCount = 0 ∧
    s.session.cmdBuf.live = [] ∧ s.session.rsp = [] ∧ s.session.armReqSeq = 0 ∧
    s.session.armAckSeq = 0 ∧ s.ctrlState = .idle ∧ s.curHalf = .half0 ∧ s.aIter = 0 ∧
    (∀ c, s.chan c = ⟨false, 0, c, 0, 0, if isDigital c then .word else .byte⟩) ∧
    s.sampler = ⟨false, false, []⟩ ∧ s.adc = ⟨false, false, []⟩ ∧
    s.enc = ⟨false, 0, 0, 0, 0⟩ ∧ s.tx.buf.live = [] ∧ s.tx.lastWriteUs = 0 ∧
    s.tx.nextMarkerUs = 0 ∧ s.wakeEvt = false ∧ s.seqA = ⟨.top, []⟩ ∧ s.seqB = ⟨.top, []⟩ ∧
    s.port.wire = [] ∧ captureActive s = false

/-- A step runs the operation its agent has next: the head of a sequencer's work list, a transfer of a
channel, a received character, after the environment's inputs have been taken (log 1, 2, 16, 18); a channel
that is idle or whose source is empty does nothing (log 17, R198), and SEQ_B, where no character has been
received, goes back to the top of its loop (R316). An agent with no enabled step changes nothing when it is
its turn (R315; log 17, 21). -/
def Obligations.StepRunsNextOperation : Prop :=
  ∀ s : State, s.params.arenaOk = true →
    let u := takeInputs s
    (∀ i rest, u.env.agent = .seqA → s.seqA.todo = i :: rest →
      step s = exec i { u with seqA.todo := rest }) ∧
    (∀ i rest, u.env.agent = .seqB → s.seqB.todo = i :: rest →
      step s = exec i { u with seqB.todo := rest }) ∧
    (∀ c, u.env.agent = .dma c → step s = exec (.dmaXfer c) u ∧
      ((s.chan c).busy = false ∨ (isDigital c = true ∧ s.sampler.fifo = []) ∨
        (isDigital c = false ∧ s.adc.fifo = []) → step s = .next u)) ∧
    (∀ c rest, u.env.agent = .seqB → s.seqB.todo = [] →
      (s.seqB.pos = .body ∨ captureActive s = false) → s.port.rx = c :: rest →
      step s = exec (.route c) { u with port.rx := rest, seqB := ⟨.top, []⟩ }) ∧
    (u.env.agent = .seqB → s.seqB.todo = [] → (s.seqB.pos = .body ∨ captureActive s = false) →
      s.port.rx = [] → step s = .next { u with seqB := ⟨.top, []⟩ }) ∧
    (u.env.agent = .seqB → s.seqB.todo = [] → s.seqB.pos = .top → captureActive s = true →
      step s = .next { u with seqB := ⟨.body, [.wake .wait]⟩ }) ∧
    (u.env.agent ≠ .host → enabled s u.env.agent = false → step s = .next u)

/-- R131, R134, R317: when the characters received for a line and the one at the head of PORT.rx decode to
an instruction, the step in which SEQ_B takes that character runs the instruction: a line command with
the response preset to `*`, its response queued, and the command buffer emptied. That the taking of the
character, its routing and the instruction are one step is the model's reading (log 16, 18, 19). -/
def Obligations.StepRunsDecodedCommand : Prop :=
  ∀ (s : State) (c : Byte) (rest : List Byte) (i : Instr), s.params.arenaOk = true →
    (takeInputs s).env.agent = .seqB → s.seqB.todo = [] → captureActive s = false →
    s.port.rx = c :: rest →
    decodeCommand s.params (s.session.cmdBuf.live ++ [c]) = .ok (i, []) →
    let u := { takeInputs s with port.rx := rest, seqB := ⟨.top, []⟩ }
    ((c = 0x2A ∨ s.session.cmdBuf.live = []) → step s = exec i u) ∧
    (c ≠ 0x2A → s.session.cmdBuf.live ≠ [] →
      step s = andThen (exec i { u with session.rsp := [0x2A] }) fun t =>
        .next { respond t with session.cmdBuf := t.session.cmdBuf.clear })

/-- R312: the loop of SEQ_A: each iteration counts and wakes SEQ_B when due, and then runs the operation
of its `case`. -/
def Obligations.SequencerALoop : Prop :=
  ∀ s : State, s.params.arenaOk = true → (takeInputs s).env.agent = .seqA → s.seqA.todo = [] →
    let u := takeInputs s
    let go := fun i rest => exec i { u with seqA := ⟨.top, rest⟩ }
    (s.seqA.pos = .top → step s = .next { u with
      aIter := s.aIter + 1
      seqA := ⟨.body, if (s.aIter + 1) % s.params.wakePeriod = 0 then [.wake .signal] else []⟩ }) ∧
    (s.seqA.pos = .body →
      (s.ctrlState = .idle → armPending s = true → step s = go (.arm .configure) []) ∧
      (s.ctrlState = .idle → armPending s = false →
        step s = .next { u with seqA := ⟨.top, []⟩ }) ∧
      (s.ctrlState = .armed → s.session.sending = true → step s = go (.arm .start) []) ∧
      (s.ctrlState = .capturing → s.session.sending = true →
        step s = go (.checkHalf .poll s.curHalf) []) ∧
      (s.ctrlState = .armed ∨ s.ctrlState = .capturing → s.session.sending = false →
        step s = go .stop [.windDownNormal .completed]) ∧
      (s.ctrlState = .completed → step s = go (.windDownNormal .flush) []) ∧
      (s.ctrlState = .aborted → step s = go .stop [.windDownAborted .check]))

/-- R203, R316: the steps of the sampler, the ADC and the host. That a peripheral that does not run
changes nothing in its step is the model's form of "no step" (log 17). -/
def Obligations.EnvironmentAgentsDeliver : Prop :=
  ∀ s : State, s.params.arenaOk = true →
    let u := takeInputs s
    (u.env.agent = .sampler →
      (s.sampler.running = false → step s = .next u) ∧
      (s.sampler.running = true → s.sampler.fifo.length < s.params.samplerFifoDepth →
        step s = .next { u with sampler.fifo := s.sampler.fifo ++ [u.env.sample] }) ∧
      (s.sampler.running = true → s.params.samplerFifoDepth ≤ s.sampler.fifo.length →
        step s = .next { u with sampler.rxStall := true })) ∧
    (u.env.agent = .adc →
      (s.adc.running = false → step s = .next u) ∧
      (s.adc.running = true → s.adc.fifo.length < s.params.adcFifoDepth →
        step s = .next { u with adc.fifo := s.adc.fifo ++ [u.env.conversion] }) ∧
      (s.adc.running = true → s.params.adcFifoDepth ≤ s.adc.fifo.length →
        step s = .next { u with adc.fifoOverflow := true })) ∧
    (u.env.agent = .host →
      step s = .next { u with port.rx := s.port.rx ++ [u.env.hostChar] })

/-! ## Invariants and whole-machine rules -/

/-- Power-on reset under well-formed parameters meets the three invariants. -/
def Obligations.ResetMeetsInvariants : Prop :=
  ∀ p : Params, p.wf = true →
    StorageInv (State.resetWith p) ∧ CaptureInv (State.resetWith p) ∧ PairInv (State.resetWith p)

/-- R43 (d), (e), R60, R29, R35: every step keeps the arena's canonical form and bound, and every buffer,
queue and string inside its capacity. -/
def Obligations.StepKeepsStorage : Prop :=
  ∀ s t : State, StorageInv s → step s = .next t → StorageInv t

/-- R43 (a), (b): every step keeps `sending` and `aborted` inside `started`, and the flags, `ctrl_state`
and the work in progress in agreement. -/
def Obligations.StepKeepsCaptureFlags : Prop :=
  ∀ s t : State, CaptureInv s → step s = .next t → CaptureInv t

/-- R218 (a), R33: every step keeps at most one channel of a pair busy, every chain target inside its
pair, and every channel's unit. -/
def Obligations.StepKeepsChannelPairs : Prop :=
  ∀ s t : State, PairInv s → step s = .next t → PairInv t

/-- R313: `ctrl_state` changes by the table only, and to Idle from elsewhere only by a RESET_CHAR. -/
def Obligations.CtrlStateFollowsTable : Prop :=
  ∀ s t : State, CaptureInv s → step s = .next t →
    ctrlTransition s.ctrlState t.ctrlState = true ∨ (takesReset s ∧ t.ctrlState = .idle)

/-- R73, R373: while a capture is active no step but a RESET_CHAR changes the configuration, the derived
registers, the geometry or the variant; the parameters never change. -/
def Obligations.ConfigurationStableInCapture : Prop :=
  ∀ s t : State, OwnOps s → step s = .next t →
    t.params = s.params ∧
    (captureActive s = true → ¬ takesReset s →
      configuration t.session = configuration s.session)

/-- R32, R60, R75: who writes what: SEQ_A none of SEQ_B's registers and no arena byte; SEQ_B, but for a
RESET_CHAR, none of SEQ_A's registers, no DMA or peripheral register and no arena byte, and it only
clears `sending` and `aborted`; a DMA channel only the channel registers, the FIFOs and the arena. -/
def Obligations.WritersOwnTheirState : Prop :=
  ∀ s t : State, OwnOps s → step s = .next t →
    ((takeInputs s).env.agent = .seqA →
      configuration t.session = configuration s.session ∧ t.session.cmdBuf = s.session.cmdBuf ∧
      t.session.rsp = s.session.rsp ∧ t.session.armReqSeq = s.session.armReqSeq ∧
      t.arena = s.arena ∧ t.port.rx = s.port.rx ∧ t.seqB = s.seqB) ∧
    ((takeInputs s).env.agent = .seqB → ¬ takesReset s →
      t.session.started = s.session.started ∧ t.session.armAckSeq = s.session.armAckSeq ∧
      t.session.samplesSentCount = s.session.samplesSentCount ∧
      t.session.bytesSentCount = s.session.bytesSentCount ∧ t.ctrlState = s.ctrlState ∧
      t.curHalf = s.curHalf ∧ t.aIter = s.aIter ∧ t.enc = s.enc ∧ t.tx.buf = s.tx.buf ∧
      t.tx.nextMarkerUs = s.tx.nextMarkerUs ∧ t.dma = s.dma ∧ t.sampler = s.sampler ∧
      t.adc = s.adc ∧ t.arena = s.arena ∧ t.seqA = s.seqA ∧
      (t.session.sending = s.session.sending ∨ t.session.sending = false) ∧
      (t.session.aborted = s.session.aborted ∨ t.session.aborted = false)) ∧
    (∀ c, (takeInputs s).env.agent = .dma c →
      t = { takeInputs s with
        dma := t.dma, arena := t.arena
        sampler.fifo := t.sampler.fifo, adc.fifo := t.adc.fifo })
end

