-- ==== Sys2Proof/Laws/State.lean ====
section
/-! SUPPORT. Laws/State.lean: one lemma per field for every named update of the state, so that a proof
need not unfold a record update. -/

namespace Sys2Proof.Machine

/-! ## Work lists -/

@[simp] theorem State.pushA_params (s : State) (ops : List Instr) : (s.pushA ops).params = s.params := rfl
@[simp] theorem State.pushA_session (s : State) (ops : List Instr) : (s.pushA ops).session = s.session := rfl
@[simp] theorem State.pushA_ctrlState (s : State) (ops : List Instr) : (s.pushA ops).ctrlState = s.ctrlState := rfl
@[simp] theorem State.pushA_curHalf (s : State) (ops : List Instr) : (s.pushA ops).curHalf = s.curHalf := rfl
@[simp] theorem State.pushA_aIter (s : State) (ops : List Instr) : (s.pushA ops).aIter = s.aIter := rfl
@[simp] theorem State.pushA_dma (s : State) (ops : List Instr) : (s.pushA ops).dma = s.dma := rfl
@[simp] theorem State.pushA_sampler (s : State) (ops : List Instr) : (s.pushA ops).sampler = s.sampler := rfl
@[simp] theorem State.pushA_adc (s : State) (ops : List Instr) : (s.pushA ops).adc = s.adc := rfl
@[simp] theorem State.pushA_enc (s : State) (ops : List Instr) : (s.pushA ops).enc = s.enc := rfl
@[simp] theorem State.pushA_tx (s : State) (ops : List Instr) : (s.pushA ops).tx = s.tx := rfl
@[simp] theorem State.pushA_wakeEvt (s : State) (ops : List Instr) : (s.pushA ops).wakeEvt = s.wakeEvt := rfl
@[simp] theorem State.pushA_arena (s : State) (ops : List Instr) : (s.pushA ops).arena = s.arena := rfl
@[simp] theorem State.pushA_port (s : State) (ops : List Instr) : (s.pushA ops).port = s.port := rfl
@[simp] theorem State.pushA_nowUs (s : State) (ops : List Instr) : (s.pushA ops).nowUs = s.nowUs := rfl
@[simp] theorem State.pushA_seqA (s : State) (ops : List Instr) : (s.pushA ops).seqA = ⟨s.seqA.pos, ops ++ s.seqA.todo⟩ := rfl
@[simp] theorem State.pushA_seqB (s : State) (ops : List Instr) : (s.pushA ops).seqB = s.seqB := rfl
@[simp] theorem State.pushA_encoded (s : State) (ops : List Instr) : (s.pushA ops).encoded = s.encoded := rfl
@[simp] theorem State.pushA_env (s : State) (ops : List Instr) : (s.pushA ops).env = s.env := rfl
@[simp] theorem State.pushA_script (s : State) (ops : List Instr) : (s.pushA ops).script = s.script := rfl
@[simp] theorem State.pushA_envCount (s : State) (ops : List Instr) : (s.pushA ops).envCount = s.envCount := rfl

@[simp] theorem State.pushB_params (s : State) (ops : List Instr) : (s.pushB ops).params = s.params := rfl
@[simp] theorem State.pushB_session (s : State) (ops : List Instr) : (s.pushB ops).session = s.session := rfl
@[simp] theorem State.pushB_ctrlState (s : State) (ops : List Instr) : (s.pushB ops).ctrlState = s.ctrlState := rfl
@[simp] theorem State.pushB_curHalf (s : State) (ops : List Instr) : (s.pushB ops).curHalf = s.curHalf := rfl
@[simp] theorem State.pushB_aIter (s : State) (ops : List Instr) : (s.pushB ops).aIter = s.aIter := rfl
@[simp] theorem State.pushB_dma (s : State) (ops : List Instr) : (s.pushB ops).dma = s.dma := rfl
@[simp] theorem State.pushB_sampler (s : State) (ops : List Instr) : (s.pushB ops).sampler = s.sampler := rfl
@[simp] theorem State.pushB_adc (s : State) (ops : List Instr) : (s.pushB ops).adc = s.adc := rfl
@[simp] theorem State.pushB_enc (s : State) (ops : List Instr) : (s.pushB ops).enc = s.enc := rfl
@[simp] theorem State.pushB_tx (s : State) (ops : List Instr) : (s.pushB ops).tx = s.tx := rfl
@[simp] theorem State.pushB_wakeEvt (s : State) (ops : List Instr) : (s.pushB ops).wakeEvt = s.wakeEvt := rfl
@[simp] theorem State.pushB_arena (s : State) (ops : List Instr) : (s.pushB ops).arena = s.arena := rfl
@[simp] theorem State.pushB_port (s : State) (ops : List Instr) : (s.pushB ops).port = s.port := rfl
@[simp] theorem State.pushB_nowUs (s : State) (ops : List Instr) : (s.pushB ops).nowUs = s.nowUs := rfl
@[simp] theorem State.pushB_seqA (s : State) (ops : List Instr) : (s.pushB ops).seqA = s.seqA := rfl
@[simp] theorem State.pushB_seqB (s : State) (ops : List Instr) : (s.pushB ops).seqB = ⟨s.seqB.pos, ops ++ s.seqB.todo⟩ := rfl
@[simp] theorem State.pushB_encoded (s : State) (ops : List Instr) : (s.pushB ops).encoded = s.encoded := rfl
@[simp] theorem State.pushB_env (s : State) (ops : List Instr) : (s.pushB ops).env = s.env := rfl
@[simp] theorem State.pushB_script (s : State) (ops : List Instr) : (s.pushB ops).script = s.script := rfl
@[simp] theorem State.pushB_envCount (s : State) (ops : List Instr) : (s.pushB ops).envCount = s.envCount := rfl

@[simp] theorem State.push_a (s : State) (ops : List Instr) : s.push .a ops = s.pushA ops := rfl

@[simp] theorem State.push_b (s : State) (ops : List Instr) : s.push .b ops = s.pushB ops := rfl

/-! ## Registers -/

@[simp] theorem State.setChan_params (s : State) (c : Chan) (v : DmaChan) : (s.setChan c v).params = s.params := rfl
@[simp] theorem State.setChan_session (s : State) (c : Chan) (v : DmaChan) : (s.setChan c v).session = s.session := rfl
@[simp] theorem State.setChan_ctrlState (s : State) (c : Chan) (v : DmaChan) : (s.setChan c v).ctrlState = s.ctrlState := rfl
@[simp] theorem State.setChan_curHalf (s : State) (c : Chan) (v : DmaChan) : (s.setChan c v).curHalf = s.curHalf := rfl
@[simp] theorem State.setChan_aIter (s : State) (c : Chan) (v : DmaChan) : (s.setChan c v).aIter = s.aIter := rfl
@[simp] theorem State.setChan_dma (s : State) (c : Chan) (v : DmaChan) : (s.setChan c v).dma = s.dma.set c v := rfl
@[simp] theorem State.setChan_sampler (s : State) (c : Chan) (v : DmaChan) : (s.setChan c v).sampler = s.sampler := rfl
@[simp] theorem State.setChan_adc (s : State) (c : Chan) (v : DmaChan) : (s.setChan c v).adc = s.adc := rfl
@[simp] theorem State.setChan_enc (s : State) (c : Chan) (v : DmaChan) : (s.setChan c v).enc = s.enc := rfl
@[simp] theorem State.setChan_tx (s : State) (c : Chan) (v : DmaChan) : (s.setChan c v).tx = s.tx := rfl
@[simp] theorem State.setChan_wakeEvt (s : State) (c : Chan) (v : DmaChan) : (s.setChan c v).wakeEvt = s.wakeEvt := rfl
@[simp] theorem State.setChan_arena (s : State) (c : Chan) (v : DmaChan) : (s.setChan c v).arena = s.arena := rfl
@[simp] theorem State.setChan_port (s : State) (c : Chan) (v : DmaChan) : (s.setChan c v).port = s.port := rfl
@[simp] theorem State.setChan_nowUs (s : State) (c : Chan) (v : DmaChan) : (s.setChan c v).nowUs = s.nowUs := rfl
@[simp] theorem State.setChan_seqA (s : State) (c : Chan) (v : DmaChan) : (s.setChan c v).seqA = s.seqA := rfl
@[simp] theorem State.setChan_seqB (s : State) (c : Chan) (v : DmaChan) : (s.setChan c v).seqB = s.seqB := rfl
@[simp] theorem State.setChan_encoded (s : State) (c : Chan) (v : DmaChan) : (s.setChan c v).encoded = s.encoded := rfl
@[simp] theorem State.setChan_env (s : State) (c : Chan) (v : DmaChan) : (s.setChan c v).env = s.env := rfl
@[simp] theorem State.setChan_script (s : State) (c : Chan) (v : DmaChan) : (s.setChan c v).script = s.script := rfl
@[simp] theorem State.setChan_envCount (s : State) (c : Chan) (v : DmaChan) : (s.setChan c v).envCount = s.envCount := rfl

@[simp] theorem setRsp_params (s : State) (r : List Byte) : (setRsp s r).params = s.params := rfl
@[simp] theorem setRsp_session_sampleRate (s : State) (r : List Byte) : (setRsp s r).session.sampleRate = s.session.sampleRate := rfl
@[simp] theorem setRsp_session_numSamples (s : State) (r : List Byte) : (setRsp s r).session.numSamples = s.session.numSamples := rfl
@[simp] theorem setRsp_session_analogMask (s : State) (r : List Byte) : (setRsp s r).session.analogMask = s.session.analogMask := rfl
@[simp] theorem setRsp_session_digitalMask (s : State) (r : List Byte) : (setRsp s r).session.digitalMask = s.session.digitalMask := rfl
@[simp] theorem setRsp_session_analogCount (s : State) (r : List Byte) : (setRsp s r).session.analogCount = s.session.analogCount := rfl
@[simp] theorem setRsp_session_digitalCount (s : State) (r : List Byte) : (setRsp s r).session.digitalCount = s.session.digitalCount := rfl
@[simp] theorem setRsp_session_dnps (s : State) (r : List Byte) : (setRsp s r).session.dnps = s.session.dnps := rfl
@[simp] theorem setRsp_session_txBytesPerSample (s : State) (r : List Byte) : (setRsp s r).session.txBytesPerSample = s.session.txBytesPerSample := rfl
@[simp] theorem setRsp_session_digHalf0Off (s : State) (r : List Byte) : (setRsp s r).session.digHalf0Off = s.session.digHalf0Off := rfl
@[simp] theorem setRsp_session_digHalf1Off (s : State) (r : List Byte) : (setRsp s r).session.digHalf1Off = s.session.digHalf1Off := rfl
@[simp] theorem setRsp_session_anaHalf0Off (s : State) (r : List Byte) : (setRsp s r).session.anaHalf0Off = s.session.anaHalf0Off := rfl
@[simp] theorem setRsp_session_anaHalf1Off (s : State) (r : List Byte) : (setRsp s r).session.anaHalf1Off = s.session.anaHalf1Off := rfl
@[simp] theorem setRsp_session_digHalfSize (s : State) (r : List Byte) : (setRsp s r).session.digHalfSize = s.session.digHalfSize := rfl
@[simp] theorem setRsp_session_anaHalfSize (s : State) (r : List Byte) : (setRsp s r).session.anaHalfSize = s.session.anaHalfSize := rfl
@[simp] theorem setRsp_session_samplesPerHalf (s : State) (r : List Byte) : (setRsp s r).session.samplesPerHalf = s.session.samplesPerHalf := rfl
@[simp] theorem setRsp_session_maskOverrunAsBenign (s : State) (r : List Byte) : (setRsp s r).session.maskOverrunAsBenign = s.session.maskOverrunAsBenign := rfl
@[simp] theorem setRsp_session_variant (s : State) (r : List Byte) : (setRsp s r).session.variant = s.session.variant := rfl
@[simp] theorem setRsp_session_started (s : State) (r : List Byte) : (setRsp s r).session.started = s.session.started := rfl
@[simp] theorem setRsp_session_sending (s : State) (r : List Byte) : (setRsp s r).session.sending = s.session.sending := rfl
@[simp] theorem setRsp_session_continuous (s : State) (r : List Byte) : (setRsp s r).session.continuous = s.session.continuous := rfl
@[simp] theorem setRsp_session_aborted (s : State) (r : List Byte) : (setRsp s r).session.aborted = s.session.aborted := rfl
@[simp] theorem setRsp_session_samplesSentCount (s : State) (r : List Byte) : (setRsp s r).session.samplesSentCount = s.session.samplesSentCount := rfl
@[simp] theorem setRsp_session_bytesSentCount (s : State) (r : List Byte) : (setRsp s r).session.bytesSentCount = s.session.bytesSentCount := rfl
@[simp] theorem setRsp_session_cmdBuf (s : State) (r : List Byte) : (setRsp s r).session.cmdBuf = s.session.cmdBuf := rfl
@[simp] theorem setRsp_session_rsp (s : State) (r : List Byte) : (setRsp s r).session.rsp = r := rfl
@[simp] theorem setRsp_session_armReqSeq (s : State) (r : List Byte) : (setRsp s r).session.armReqSeq = s.session.armReqSeq := rfl
@[simp] theorem setRsp_session_armAckSeq (s : State) (r : List Byte) : (setRsp s r).session.armAckSeq = s.session.armAckSeq := rfl
@[simp] theorem setRsp_ctrlState (s : State) (r : List Byte) : (setRsp s r).ctrlState = s.ctrlState := rfl
@[simp] theorem setRsp_curHalf (s : State) (r : List Byte) : (setRsp s r).curHalf = s.curHalf := rfl
@[simp] theorem setRsp_aIter (s : State) (r : List Byte) : (setRsp s r).aIter = s.aIter := rfl
@[simp] theorem setRsp_dma (s : State) (r : List Byte) : (setRsp s r).dma = s.dma := rfl
@[simp] theorem setRsp_sampler (s : State) (r : List Byte) : (setRsp s r).sampler = s.sampler := rfl
@[simp] theorem setRsp_adc (s : State) (r : List Byte) : (setRsp s r).adc = s.adc := rfl
@[simp] theorem setRsp_enc (s : State) (r : List Byte) : (setRsp s r).enc = s.enc := rfl
@[simp] theorem setRsp_tx (s : State) (r : List Byte) : (setRsp s r).tx = s.tx := rfl
@[simp] theorem setRsp_wakeEvt (s : State) (r : List Byte) : (setRsp s r).wakeEvt = s.wakeEvt := rfl
@[simp] theorem setRsp_arena (s : State) (r : List Byte) : (setRsp s r).arena = s.arena := rfl
@[simp] theorem setRsp_port (s : State) (r : List Byte) : (setRsp s r).port = s.port := rfl
@[simp] theorem setRsp_nowUs (s : State) (r : List Byte) : (setRsp s r).nowUs = s.nowUs := rfl
@[simp] theorem setRsp_seqA (s : State) (r : List Byte) : (setRsp s r).seqA = s.seqA := rfl
@[simp] theorem setRsp_seqB (s : State) (r : List Byte) : (setRsp s r).seqB = s.seqB := rfl
@[simp] theorem setRsp_encoded (s : State) (r : List Byte) : (setRsp s r).encoded = s.encoded := rfl
@[simp] theorem setRsp_env (s : State) (r : List Byte) : (setRsp s r).env = s.env := rfl
@[simp] theorem setRsp_script (s : State) (r : List Byte) : (setRsp s r).script = s.script := rfl
@[simp] theorem setRsp_envCount (s : State) (r : List Byte) : (setRsp s r).envCount = s.envCount := rfl

@[simp] theorem clearCmd_params (s : State) : (clearCmd s).params = s.params := rfl
@[simp] theorem clearCmd_session_sampleRate (s : State) : (clearCmd s).session.sampleRate = s.session.sampleRate := rfl
@[simp] theorem clearCmd_session_numSamples (s : State) : (clearCmd s).session.numSamples = s.session.numSamples := rfl
@[simp] theorem clearCmd_session_analogMask (s : State) : (clearCmd s).session.analogMask = s.session.analogMask := rfl
@[simp] theorem clearCmd_session_digitalMask (s : State) : (clearCmd s).session.digitalMask = s.session.digitalMask := rfl
@[simp] theorem clearCmd_session_analogCount (s : State) : (clearCmd s).session.analogCount = s.session.analogCount := rfl
@[simp] theorem clearCmd_session_digitalCount (s : State) : (clearCmd s).session.digitalCount = s.session.digitalCount := rfl
@[simp] theorem clearCmd_session_dnps (s : State) : (clearCmd s).session.dnps = s.session.dnps := rfl
@[simp] theorem clearCmd_session_txBytesPerSample (s : State) : (clearCmd s).session.txBytesPerSample = s.session.txBytesPerSample := rfl
@[simp] theorem clearCmd_session_digHalf0Off (s : State) : (clearCmd s).session.digHalf0Off = s.session.digHalf0Off := rfl
@[simp] theorem clearCmd_session_digHalf1Off (s : State) : (clearCmd s).session.digHalf1Off = s.session.digHalf1Off := rfl
@[simp] theorem clearCmd_session_anaHalf0Off (s : State) : (clearCmd s).session.anaHalf0Off = s.session.anaHalf0Off := rfl
@[simp] theorem clearCmd_session_anaHalf1Off (s : State) : (clearCmd s).session.anaHalf1Off = s.session.anaHalf1Off := rfl
@[simp] theorem clearCmd_session_digHalfSize (s : State) : (clearCmd s).session.digHalfSize = s.session.digHalfSize := rfl
@[simp] theorem clearCmd_session_anaHalfSize (s : State) : (clearCmd s).session.anaHalfSize = s.session.anaHalfSize := rfl
@[simp] theorem clearCmd_session_samplesPerHalf (s : State) : (clearCmd s).session.samplesPerHalf = s.session.samplesPerHalf := rfl
@[simp] theorem clearCmd_session_maskOverrunAsBenign (s : State) : (clearCmd s).session.maskOverrunAsBenign = s.session.maskOverrunAsBenign := rfl
@[simp] theorem clearCmd_session_variant (s : State) : (clearCmd s).session.variant = s.session.variant := rfl
@[simp] theorem clearCmd_session_started (s : State) : (clearCmd s).session.started = s.session.started := rfl
@[simp] theorem clearCmd_session_sending (s : State) : (clearCmd s).session.sending = s.session.sending := rfl
@[simp] theorem clearCmd_session_continuous (s : State) : (clearCmd s).session.continuous = s.session.continuous := rfl
@[simp] theorem clearCmd_session_aborted (s : State) : (clearCmd s).session.aborted = s.session.aborted := rfl
@[simp] theorem clearCmd_session_samplesSentCount (s : State) : (clearCmd s).session.samplesSentCount = s.session.samplesSentCount := rfl
@[simp] theorem clearCmd_session_bytesSentCount (s : State) : (clearCmd s).session.bytesSentCount = s.session.bytesSentCount := rfl
@[simp] theorem clearCmd_session_cmdBuf (s : State) : (clearCmd s).session.cmdBuf = s.session.cmdBuf.clear := rfl
@[simp] theorem clearCmd_session_rsp (s : State) : (clearCmd s).session.rsp = s.session.rsp := rfl
@[simp] theorem clearCmd_session_armReqSeq (s : State) : (clearCmd s).session.armReqSeq = s.session.armReqSeq := rfl
@[simp] theorem clearCmd_session_armAckSeq (s : State) : (clearCmd s).session.armAckSeq = s.session.armAckSeq := rfl
@[simp] theorem clearCmd_ctrlState (s : State) : (clearCmd s).ctrlState = s.ctrlState := rfl
@[simp] theorem clearCmd_curHalf (s : State) : (clearCmd s).curHalf = s.curHalf := rfl
@[simp] theorem clearCmd_aIter (s : State) : (clearCmd s).aIter = s.aIter := rfl
@[simp] theorem clearCmd_dma (s : State) : (clearCmd s).dma = s.dma := rfl
@[simp] theorem clearCmd_sampler (s : State) : (clearCmd s).sampler = s.sampler := rfl
@[simp] theorem clearCmd_adc (s : State) : (clearCmd s).adc = s.adc := rfl
@[simp] theorem clearCmd_enc (s : State) : (clearCmd s).enc = s.enc := rfl
@[simp] theorem clearCmd_tx (s : State) : (clearCmd s).tx = s.tx := rfl
@[simp] theorem clearCmd_wakeEvt (s : State) : (clearCmd s).wakeEvt = s.wakeEvt := rfl
@[simp] theorem clearCmd_arena (s : State) : (clearCmd s).arena = s.arena := rfl
@[simp] theorem clearCmd_port (s : State) : (clearCmd s).port = s.port := rfl
@[simp] theorem clearCmd_nowUs (s : State) : (clearCmd s).nowUs = s.nowUs := rfl
@[simp] theorem clearCmd_seqA (s : State) : (clearCmd s).seqA = s.seqA := rfl
@[simp] theorem clearCmd_seqB (s : State) : (clearCmd s).seqB = s.seqB := rfl
@[simp] theorem clearCmd_encoded (s : State) : (clearCmd s).encoded = s.encoded := rfl
@[simp] theorem clearCmd_env (s : State) : (clearCmd s).env = s.env := rfl
@[simp] theorem clearCmd_script (s : State) : (clearCmd s).script = s.script := rfl
@[simp] theorem clearCmd_envCount (s : State) : (clearCmd s).envCount = s.envCount := rfl

@[simp] theorem leaveCapture_params (s : State) : (leaveCapture s).params = s.params := rfl
@[simp] theorem leaveCapture_session_sampleRate (s : State) : (leaveCapture s).session.sampleRate = s.session.sampleRate := rfl
@[simp] theorem leaveCapture_session_numSamples (s : State) : (leaveCapture s).session.numSamples = s.session.numSamples := rfl
@[simp] theorem leaveCapture_session_analogMask (s : State) : (leaveCapture s).session.analogMask = s.session.analogMask := rfl
@[simp] theorem leaveCapture_session_digitalMask (s : State) : (leaveCapture s).session.digitalMask = s.session.digitalMask := rfl
@[simp] theorem leaveCapture_session_analogCount (s : State) : (leaveCapture s).session.analogCount = s.session.analogCount := rfl
@[simp] theorem leaveCapture_session_digitalCount (s : State) : (leaveCapture s).session.digitalCount = s.session.digitalCount := rfl
@[simp] theorem leaveCapture_session_dnps (s : State) : (leaveCapture s).session.dnps = s.session.dnps := rfl
@[simp] theorem leaveCapture_session_txBytesPerSample (s : State) : (leaveCapture s).session.txBytesPerSample = s.session.txBytesPerSample := rfl
@[simp] theorem leaveCapture_session_digHalf0Off (s : State) : (leaveCapture s).session.digHalf0Off = s.session.digHalf0Off := rfl
@[simp] theorem leaveCapture_session_digHalf1Off (s : State) : (leaveCapture s).session.digHalf1Off = s.session.digHalf1Off := rfl
@[simp] theorem leaveCapture_session_anaHalf0Off (s : State) : (leaveCapture s).session.anaHalf0Off = s.session.anaHalf0Off := rfl
@[simp] theorem leaveCapture_session_anaHalf1Off (s : State) : (leaveCapture s).session.anaHalf1Off = s.session.anaHalf1Off := rfl
@[simp] theorem leaveCapture_session_digHalfSize (s : State) : (leaveCapture s).session.digHalfSize = s.session.digHalfSize := rfl
@[simp] theorem leaveCapture_session_anaHalfSize (s : State) : (leaveCapture s).session.anaHalfSize = s.session.anaHalfSize := rfl
@[simp] theorem leaveCapture_session_samplesPerHalf (s : State) : (leaveCapture s).session.samplesPerHalf = s.session.samplesPerHalf := rfl
@[simp] theorem leaveCapture_session_maskOverrunAsBenign (s : State) : (leaveCapture s).session.maskOverrunAsBenign = s.session.maskOverrunAsBenign := rfl
@[simp] theorem leaveCapture_session_variant (s : State) : (leaveCapture s).session.variant = s.session.variant := rfl
@[simp] theorem leaveCapture_session_started (s : State) : (leaveCapture s).session.started = false := rfl
@[simp] theorem leaveCapture_session_sending (s : State) : (leaveCapture s).session.sending = s.session.sending := rfl
@[simp] theorem leaveCapture_session_continuous (s : State) : (leaveCapture s).session.continuous = s.session.continuous := rfl
@[simp] theorem leaveCapture_session_aborted (s : State) : (leaveCapture s).session.aborted = s.session.aborted := rfl
@[simp] theorem leaveCapture_session_samplesSentCount (s : State) : (leaveCapture s).session.samplesSentCount = s.session.samplesSentCount := rfl
@[simp] theorem leaveCapture_session_bytesSentCount (s : State) : (leaveCapture s).session.bytesSentCount = s.session.bytesSentCount := rfl
@[simp] theorem leaveCapture_session_cmdBuf (s : State) : (leaveCapture s).session.cmdBuf = s.session.cmdBuf := rfl
@[simp] theorem leaveCapture_session_rsp (s : State) : (leaveCapture s).session.rsp = s.session.rsp := rfl
@[simp] theorem leaveCapture_session_armReqSeq (s : State) : (leaveCapture s).session.armReqSeq = s.session.armReqSeq := rfl
@[simp] theorem leaveCapture_session_armAckSeq (s : State) : (leaveCapture s).session.armAckSeq = s.session.armAckSeq := rfl
@[simp] theorem leaveCapture_ctrlState (s : State) : (leaveCapture s).ctrlState = .idle := rfl
@[simp] theorem leaveCapture_curHalf (s : State) : (leaveCapture s).curHalf = s.curHalf := rfl
@[simp] theorem leaveCapture_aIter (s : State) : (leaveCapture s).aIter = s.aIter := rfl
@[simp] theorem leaveCapture_dma (s : State) : (leaveCapture s).dma = s.dma := rfl
@[simp] theorem leaveCapture_sampler (s : State) : (leaveCapture s).sampler = s.sampler := rfl
@[simp] theorem leaveCapture_adc (s : State) : (leaveCapture s).adc = s.adc := rfl
@[simp] theorem leaveCapture_enc (s : State) : (leaveCapture s).enc = s.enc := rfl
@[simp] theorem leaveCapture_tx (s : State) : (leaveCapture s).tx = s.tx := rfl
@[simp] theorem leaveCapture_wakeEvt (s : State) : (leaveCapture s).wakeEvt = s.wakeEvt := rfl
@[simp] theorem leaveCapture_arena (s : State) : (leaveCapture s).arena = s.arena := rfl
@[simp] theorem leaveCapture_port (s : State) : (leaveCapture s).port = s.port := rfl
@[simp] theorem leaveCapture_nowUs (s : State) : (leaveCapture s).nowUs = s.nowUs := rfl
@[simp] theorem leaveCapture_seqA (s : State) : (leaveCapture s).seqA = s.seqA := rfl
@[simp] theorem leaveCapture_seqB (s : State) : (leaveCapture s).seqB = s.seqB := rfl
@[simp] theorem leaveCapture_encoded (s : State) : (leaveCapture s).encoded = s.encoded := rfl
@[simp] theorem leaveCapture_env (s : State) : (leaveCapture s).env = s.env := rfl
@[simp] theorem leaveCapture_script (s : State) : (leaveCapture s).script = s.script := rfl
@[simp] theorem leaveCapture_envCount (s : State) : (leaveCapture s).envCount = s.envCount := rfl

/-! ## Peripherals and transport -/

@[simp] theorem samplerStart_params (s : State) : (samplerStart s).params = s.params := rfl
@[simp] theorem samplerStart_session (s : State) : (samplerStart s).session = s.session := rfl
@[simp] theorem samplerStart_ctrlState (s : State) : (samplerStart s).ctrlState = s.ctrlState := rfl
@[simp] theorem samplerStart_curHalf (s : State) : (samplerStart s).curHalf = s.curHalf := rfl
@[simp] theorem samplerStart_aIter (s : State) : (samplerStart s).aIter = s.aIter := rfl
@[simp] theorem samplerStart_dma (s : State) : (samplerStart s).dma = s.dma := rfl
@[simp] theorem samplerStart_sampler (s : State) : (samplerStart s).sampler = ⟨true, s.sampler.rxStall, s.sampler.fifo⟩ := rfl
@[simp] theorem samplerStart_adc (s : State) : (samplerStart s).adc = s.adc := rfl
@[simp] theorem samplerStart_enc (s : State) : (samplerStart s).enc = s.enc := rfl
@[simp] theorem samplerStart_tx (s : State) : (samplerStart s).tx = s.tx := rfl
@[simp] theorem samplerStart_wakeEvt (s : State) : (samplerStart s).wakeEvt = s.wakeEvt := rfl
@[simp] theorem samplerStart_arena (s : State) : (samplerStart s).arena = s.arena := rfl
@[simp] theorem samplerStart_port (s : State) : (samplerStart s).port = s.port := rfl
@[simp] theorem samplerStart_nowUs (s : State) : (samplerStart s).nowUs = s.nowUs := rfl
@[simp] theorem samplerStart_seqA (s : State) : (samplerStart s).seqA = s.seqA := rfl
@[simp] theorem samplerStart_seqB (s : State) : (samplerStart s).seqB = s.seqB := rfl
@[simp] theorem samplerStart_encoded (s : State) : (samplerStart s).encoded = s.encoded := rfl
@[simp] theorem samplerStart_env (s : State) : (samplerStart s).env = s.env := rfl
@[simp] theorem samplerStart_script (s : State) : (samplerStart s).script = s.script := rfl
@[simp] theorem samplerStart_envCount (s : State) : (samplerStart s).envCount = s.envCount := rfl

@[simp] theorem adcStart_params (s : State) : (adcStart s).params = s.params := rfl
@[simp] theorem adcStart_session (s : State) : (adcStart s).session = s.session := rfl
@[simp] theorem adcStart_ctrlState (s : State) : (adcStart s).ctrlState = s.ctrlState := rfl
@[simp] theorem adcStart_curHalf (s : State) : (adcStart s).curHalf = s.curHalf := rfl
@[simp] theorem adcStart_aIter (s : State) : (adcStart s).aIter = s.aIter := rfl
@[simp] theorem adcStart_dma (s : State) : (adcStart s).dma = s.dma := rfl
@[simp] theorem adcStart_sampler (s : State) : (adcStart s).sampler = s.sampler := rfl
@[simp] theorem adcStart_adc (s : State) : (adcStart s).adc = ⟨true, s.adc.fifoOverflow, s.adc.fifo⟩ := rfl
@[simp] theorem adcStart_enc (s : State) : (adcStart s).enc = s.enc := rfl
@[simp] theorem adcStart_tx (s : State) : (adcStart s).tx = s.tx := rfl
@[simp] theorem adcStart_wakeEvt (s : State) : (adcStart s).wakeEvt = s.wakeEvt := rfl
@[simp] theorem adcStart_arena (s : State) : (adcStart s).arena = s.arena := rfl
@[simp] theorem adcStart_port (s : State) : (adcStart s).port = s.port := rfl
@[simp] theorem adcStart_nowUs (s : State) : (adcStart s).nowUs = s.nowUs := rfl
@[simp] theorem adcStart_seqA (s : State) : (adcStart s).seqA = s.seqA := rfl
@[simp] theorem adcStart_seqB (s : State) : (adcStart s).seqB = s.seqB := rfl
@[simp] theorem adcStart_encoded (s : State) : (adcStart s).encoded = s.encoded := rfl
@[simp] theorem adcStart_env (s : State) : (adcStart s).env = s.env := rfl
@[simp] theorem adcStart_script (s : State) : (adcStart s).script = s.script := rfl
@[simp] theorem adcStart_envCount (s : State) : (adcStart s).envCount = s.envCount := rfl

@[simp] theorem samplerStop_params (s : State) : (samplerStop s).params = s.params := rfl
@[simp] theorem samplerStop_session (s : State) : (samplerStop s).session = s.session := rfl
@[simp] theorem samplerStop_ctrlState (s : State) : (samplerStop s).ctrlState = s.ctrlState := rfl
@[simp] theorem samplerStop_curHalf (s : State) : (samplerStop s).curHalf = s.curHalf := rfl
@[simp] theorem samplerStop_aIter (s : State) : (samplerStop s).aIter = s.aIter := rfl
@[simp] theorem samplerStop_dma (s : State) : (samplerStop s).dma = s.dma := rfl
@[simp] theorem samplerStop_sampler (s : State) : (samplerStop s).sampler = ⟨false, s.sampler.rxStall, []⟩ := rfl
@[simp] theorem samplerStop_adc (s : State) : (samplerStop s).adc = s.adc := rfl
@[simp] theorem samplerStop_enc (s : State) : (samplerStop s).enc = s.enc := rfl
@[simp] theorem samplerStop_tx (s : State) : (samplerStop s).tx = s.tx := rfl
@[simp] theorem samplerStop_wakeEvt (s : State) : (samplerStop s).wakeEvt = s.wakeEvt := rfl
@[simp] theorem samplerStop_arena (s : State) : (samplerStop s).arena = s.arena := rfl
@[simp] theorem samplerStop_port (s : State) : (samplerStop s).port = s.port := rfl
@[simp] theorem samplerStop_nowUs (s : State) : (samplerStop s).nowUs = s.nowUs := rfl
@[simp] theorem samplerStop_seqA (s : State) : (samplerStop s).seqA = s.seqA := rfl
@[simp] theorem samplerStop_seqB (s : State) : (samplerStop s).seqB = s.seqB := rfl
@[simp] theorem samplerStop_encoded (s : State) : (samplerStop s).encoded = s.encoded := rfl
@[simp] theorem samplerStop_env (s : State) : (samplerStop s).env = s.env := rfl
@[simp] theorem samplerStop_script (s : State) : (samplerStop s).script = s.script := rfl
@[simp] theorem samplerStop_envCount (s : State) : (samplerStop s).envCount = s.envCount := rfl

@[simp] theorem adcStop_params (s : State) : (adcStop s).params = s.params := rfl
@[simp] theorem adcStop_session (s : State) : (adcStop s).session = s.session := rfl
@[simp] theorem adcStop_ctrlState (s : State) : (adcStop s).ctrlState = s.ctrlState := rfl
@[simp] theorem adcStop_curHalf (s : State) : (adcStop s).curHalf = s.curHalf := rfl
@[simp] theorem adcStop_aIter (s : State) : (adcStop s).aIter = s.aIter := rfl
@[simp] theorem adcStop_dma (s : State) : (adcStop s).dma = s.dma := rfl
@[simp] theorem adcStop_sampler (s : State) : (adcStop s).sampler = s.sampler := rfl
@[simp] theorem adcStop_adc (s : State) : (adcStop s).adc = ⟨false, s.adc.fifoOverflow, []⟩ := rfl
@[simp] theorem adcStop_enc (s : State) : (adcStop s).enc = s.enc := rfl
@[simp] theorem adcStop_tx (s : State) : (adcStop s).tx = s.tx := rfl
@[simp] theorem adcStop_wakeEvt (s : State) : (adcStop s).wakeEvt = s.wakeEvt := rfl
@[simp] theorem adcStop_arena (s : State) : (adcStop s).arena = s.arena := rfl
@[simp] theorem adcStop_port (s : State) : (adcStop s).port = s.port := rfl
@[simp] theorem adcStop_nowUs (s : State) : (adcStop s).nowUs = s.nowUs := rfl
@[simp] theorem adcStop_seqA (s : State) : (adcStop s).seqA = s.seqA := rfl
@[simp] theorem adcStop_seqB (s : State) : (adcStop s).seqB = s.seqB := rfl
@[simp] theorem adcStop_encoded (s : State) : (adcStop s).encoded = s.encoded := rfl
@[simp] theorem adcStop_env (s : State) : (adcStop s).env = s.env := rfl
@[simp] theorem adcStop_script (s : State) : (adcStop s).script = s.script := rfl
@[simp] theorem adcStop_envCount (s : State) : (adcStop s).envCount = s.envCount := rfl

@[simp] theorem hostSend_params (s : State) (c : Byte) : (hostSend s c).params = s.params := rfl
@[simp] theorem hostSend_session (s : State) (c : Byte) : (hostSend s c).session = s.session := rfl
@[simp] theorem hostSend_ctrlState (s : State) (c : Byte) : (hostSend s c).ctrlState = s.ctrlState := rfl
@[simp] theorem hostSend_curHalf (s : State) (c : Byte) : (hostSend s c).curHalf = s.curHalf := rfl
@[simp] theorem hostSend_aIter (s : State) (c : Byte) : (hostSend s c).aIter = s.aIter := rfl
@[simp] theorem hostSend_dma (s : State) (c : Byte) : (hostSend s c).dma = s.dma := rfl
@[simp] theorem hostSend_sampler (s : State) (c : Byte) : (hostSend s c).sampler = s.sampler := rfl
@[simp] theorem hostSend_adc (s : State) (c : Byte) : (hostSend s c).adc = s.adc := rfl
@[simp] theorem hostSend_enc (s : State) (c : Byte) : (hostSend s c).enc = s.enc := rfl
@[simp] theorem hostSend_tx (s : State) (c : Byte) : (hostSend s c).tx = s.tx := rfl
@[simp] theorem hostSend_wakeEvt (s : State) (c : Byte) : (hostSend s c).wakeEvt = s.wakeEvt := rfl
@[simp] theorem hostSend_arena (s : State) (c : Byte) : (hostSend s c).arena = s.arena := rfl
@[simp] theorem hostSend_port (s : State) (c : Byte) : (hostSend s c).port = ⟨s.port.rx ++ [c], s.port.wire⟩ := rfl
@[simp] theorem hostSend_nowUs (s : State) (c : Byte) : (hostSend s c).nowUs = s.nowUs := rfl
@[simp] theorem hostSend_seqA (s : State) (c : Byte) : (hostSend s c).seqA = s.seqA := rfl
@[simp] theorem hostSend_seqB (s : State) (c : Byte) : (hostSend s c).seqB = s.seqB := rfl
@[simp] theorem hostSend_encoded (s : State) (c : Byte) : (hostSend s c).encoded = s.encoded := rfl
@[simp] theorem hostSend_env (s : State) (c : Byte) : (hostSend s c).env = s.env := rfl
@[simp] theorem hostSend_script (s : State) (c : Byte) : (hostSend s c).script = s.script := rfl
@[simp] theorem hostSend_envCount (s : State) (c : Byte) : (hostSend s c).envCount = s.envCount := rfl

@[simp] theorem portWrite_params (s : State) (data : List Byte) (k : Nat) (counted : Bool) : (portWrite s data k counted).params = s.params := rfl
@[simp] theorem portWrite_session_sampleRate (s : State) (data : List Byte) (k : Nat) (counted : Bool) : (portWrite s data k counted).session.sampleRate = s.session.sampleRate := rfl
@[simp] theorem portWrite_session_numSamples (s : State) (data : List Byte) (k : Nat) (counted : Bool) : (portWrite s data k counted).session.numSamples = s.session.numSamples := rfl
@[simp] theorem portWrite_session_analogMask (s : State) (data : List Byte) (k : Nat) (counted : Bool) : (portWrite s data k counted).session.analogMask = s.session.analogMask := rfl
@[simp] theorem portWrite_session_digitalMask (s : State) (data : List Byte) (k : Nat) (counted : Bool) : (portWrite s data k counted).session.digitalMask = s.session.digitalMask := rfl
@[simp] theorem portWrite_session_analogCount (s : State) (data : List Byte) (k : Nat) (counted : Bool) : (portWrite s data k counted).session.analogCount = s.session.analogCount := rfl
@[simp] theorem portWrite_session_digitalCount (s : State) (data : List Byte) (k : Nat) (counted : Bool) : (portWrite s data k counted).session.digitalCount = s.session.digitalCount := rfl
@[simp] theorem portWrite_session_dnps (s : State) (data : List Byte) (k : Nat) (counted : Bool) : (portWrite s data k counted).session.dnps = s.session.dnps := rfl
@[simp] theorem portWrite_session_txBytesPerSample (s : State) (data : List Byte) (k : Nat) (counted : Bool) : (portWrite s data k counted).session.txBytesPerSample = s.session.txBytesPerSample := rfl
@[simp] theorem portWrite_session_digHalf0Off (s : State) (data : List Byte) (k : Nat) (counted : Bool) : (portWrite s data k counted).session.digHalf0Off = s.session.digHalf0Off := rfl
@[simp] theorem portWrite_session_digHalf1Off (s : State) (data : List Byte) (k : Nat) (counted : Bool) : (portWrite s data k counted).session.digHalf1Off = s.session.digHalf1Off := rfl
@[simp] theorem portWrite_session_anaHalf0Off (s : State) (data : List Byte) (k : Nat) (counted : Bool) : (portWrite s data k counted).session.anaHalf0Off = s.session.anaHalf0Off := rfl
@[simp] theorem portWrite_session_anaHalf1Off (s : State) (data : List Byte) (k : Nat) (counted : Bool) : (portWrite s data k counted).session.anaHalf1Off = s.session.anaHalf1Off := rfl
@[simp] theorem portWrite_session_digHalfSize (s : State) (data : List Byte) (k : Nat) (counted : Bool) : (portWrite s data k counted).session.digHalfSize = s.session.digHalfSize := rfl
@[simp] theorem portWrite_session_anaHalfSize (s : State) (data : List Byte) (k : Nat) (counted : Bool) : (portWrite s data k counted).session.anaHalfSize = s.session.anaHalfSize := rfl
@[simp] theorem portWrite_session_samplesPerHalf (s : State) (data : List Byte) (k : Nat) (counted : Bool) : (portWrite s data k counted).session.samplesPerHalf = s.session.samplesPerHalf := rfl
@[simp] theorem portWrite_session_maskOverrunAsBenign (s : State) (data : List Byte) (k : Nat) (counted : Bool) : (portWrite s data k counted).session.maskOverrunAsBenign = s.session.maskOverrunAsBenign := rfl
@[simp] theorem portWrite_session_variant (s : State) (data : List Byte) (k : Nat) (counted : Bool) : (portWrite s data k counted).session.variant = s.session.variant := rfl
@[simp] theorem portWrite_session_started (s : State) (data : List Byte) (k : Nat) (counted : Bool) : (portWrite s data k counted).session.started = s.session.started := rfl
@[simp] theorem portWrite_session_sending (s : State) (data : List Byte) (k : Nat) (counted : Bool) : (portWrite s data k counted).session.sending = s.session.sending := rfl
@[simp] theorem portWrite_session_continuous (s : State) (data : List Byte) (k : Nat) (counted : Bool) : (portWrite s data k counted).session.continuous = s.session.continuous := rfl
@[simp] theorem portWrite_session_aborted (s : State) (data : List Byte) (k : Nat) (counted : Bool) : (portWrite s data k counted).session.aborted = s.session.aborted := rfl
@[simp] theorem portWrite_session_samplesSentCount (s : State) (data : List Byte) (k : Nat) (counted : Bool) : (portWrite s data k counted).session.samplesSentCount = s.session.samplesSentCount := rfl
@[simp] theorem portWrite_session_bytesSentCount (s : State) (data : List Byte) (k : Nat) (counted : Bool) : (portWrite s data k counted).session.bytesSentCount = s.session.bytesSentCount + (if counted then k else 0) := rfl
@[simp] theorem portWrite_session_cmdBuf (s : State) (data : List Byte) (k : Nat) (counted : Bool) : (portWrite s data k counted).session.cmdBuf = s.session.cmdBuf := rfl
@[simp] theorem portWrite_session_rsp (s : State) (data : List Byte) (k : Nat) (counted : Bool) : (portWrite s data k counted).session.rsp = s.session.rsp := rfl
@[simp] theorem portWrite_session_armReqSeq (s : State) (data : List Byte) (k : Nat) (counted : Bool) : (portWrite s data k counted).session.armReqSeq = s.session.armReqSeq := rfl
@[simp] theorem portWrite_session_armAckSeq (s : State) (data : List Byte) (k : Nat) (counted : Bool) : (portWrite s data k counted).session.armAckSeq = s.session.armAckSeq := rfl
@[simp] theorem portWrite_ctrlState (s : State) (data : List Byte) (k : Nat) (counted : Bool) : (portWrite s data k counted).ctrlState = s.ctrlState := rfl
@[simp] theorem portWrite_curHalf (s : State) (data : List Byte) (k : Nat) (counted : Bool) : (portWrite s data k counted).curHalf = s.curHalf := rfl
@[simp] theorem portWrite_aIter (s : State) (data : List Byte) (k : Nat) (counted : Bool) : (portWrite s data k counted).aIter = s.aIter := rfl
@[simp] theorem portWrite_dma (s : State) (data : List Byte) (k : Nat) (counted : Bool) : (portWrite s data k counted).dma = s.dma := rfl
@[simp] theorem portWrite_sampler (s : State) (data : List Byte) (k : Nat) (counted : Bool) : (portWrite s data k counted).sampler = s.sampler := rfl
@[simp] theorem portWrite_adc (s : State) (data : List Byte) (k : Nat) (counted : Bool) : (portWrite s data k counted).adc = s.adc := rfl
@[simp] theorem portWrite_enc (s : State) (data : List Byte) (k : Nat) (counted : Bool) : (portWrite s data k counted).enc = s.enc := rfl
@[simp] theorem portWrite_tx (s : State) (data : List Byte) (k : Nat) (counted : Bool) : (portWrite s data k counted).tx = ⟨s.tx.buf, if 0 < k then s.nowUs else s.tx.lastWriteUs, s.tx.nextMarkerUs⟩ := rfl
@[simp] theorem portWrite_wakeEvt (s : State) (data : List Byte) (k : Nat) (counted : Bool) : (portWrite s data k counted).wakeEvt = s.wakeEvt := rfl
@[simp] theorem portWrite_arena (s : State) (data : List Byte) (k : Nat) (counted : Bool) : (portWrite s data k counted).arena = s.arena := rfl
@[simp] theorem portWrite_port (s : State) (data : List Byte) (k : Nat) (counted : Bool) : (portWrite s data k counted).port = ⟨s.port.rx, s.port.wire ++ data.take k⟩ := rfl
@[simp] theorem portWrite_nowUs (s : State) (data : List Byte) (k : Nat) (counted : Bool) : (portWrite s data k counted).nowUs = s.nowUs := rfl
@[simp] theorem portWrite_seqA (s : State) (data : List Byte) (k : Nat) (counted : Bool) : (portWrite s data k counted).seqA = s.seqA := rfl
@[simp] theorem portWrite_seqB (s : State) (data : List Byte) (k : Nat) (counted : Bool) : (portWrite s data k counted).seqB = s.seqB := rfl
@[simp] theorem portWrite_encoded (s : State) (data : List Byte) (k : Nat) (counted : Bool) : (portWrite s data k counted).encoded = s.encoded := rfl
@[simp] theorem portWrite_env (s : State) (data : List Byte) (k : Nat) (counted : Bool) : (portWrite s data k counted).env = s.env := rfl
@[simp] theorem portWrite_script (s : State) (data : List Byte) (k : Nat) (counted : Bool) : (portWrite s data k counted).script = s.script := rfl
@[simp] theorem portWrite_envCount (s : State) (data : List Byte) (k : Nat) (counted : Bool) : (portWrite s data k counted).envCount = s.envCount := rfl

/-! ## Encoders and Overrun -/

@[simp] theorem encodePart_params (s : State) (r : List Instr × Enc) (next : List Instr) : (encodePart s r next).params = s.params := rfl
@[simp] theorem encodePart_session (s : State) (r : List Instr × Enc) (next : List Instr) : (encodePart s r next).session = s.session := rfl
@[simp] theorem encodePart_ctrlState (s : State) (r : List Instr × Enc) (next : List Instr) : (encodePart s r next).ctrlState = s.ctrlState := rfl
@[simp] theorem encodePart_curHalf (s : State) (r : List Instr × Enc) (next : List Instr) : (encodePart s r next).curHalf = s.curHalf := rfl
@[simp] theorem encodePart_aIter (s : State) (r : List Instr × Enc) (next : List Instr) : (encodePart s r next).aIter = s.aIter := rfl
@[simp] theorem encodePart_dma (s : State) (r : List Instr × Enc) (next : List Instr) : (encodePart s r next).dma = s.dma := rfl
@[simp] theorem encodePart_sampler (s : State) (r : List Instr × Enc) (next : List Instr) : (encodePart s r next).sampler = s.sampler := rfl
@[simp] theorem encodePart_adc (s : State) (r : List Instr × Enc) (next : List Instr) : (encodePart s r next).adc = s.adc := rfl
@[simp] theorem encodePart_enc (s : State) (r : List Instr × Enc) (next : List Instr) : (encodePart s r next).enc = r.2 := rfl
@[simp] theorem encodePart_tx (s : State) (r : List Instr × Enc) (next : List Instr) : (encodePart s r next).tx = s.tx := rfl
@[simp] theorem encodePart_wakeEvt (s : State) (r : List Instr × Enc) (next : List Instr) : (encodePart s r next).wakeEvt = s.wakeEvt := rfl
@[simp] theorem encodePart_arena (s : State) (r : List Instr × Enc) (next : List Instr) : (encodePart s r next).arena = s.arena := rfl
@[simp] theorem encodePart_port (s : State) (r : List Instr × Enc) (next : List Instr) : (encodePart s r next).port = s.port := rfl
@[simp] theorem encodePart_nowUs (s : State) (r : List Instr × Enc) (next : List Instr) : (encodePart s r next).nowUs = s.nowUs := rfl
@[simp] theorem encodePart_seqA (s : State) (r : List Instr × Enc) (next : List Instr) : (encodePart s r next).seqA = ⟨s.seqA.pos, (r.1 ++ next) ++ s.seqA.todo⟩ := rfl
@[simp] theorem encodePart_seqB (s : State) (r : List Instr × Enc) (next : List Instr) : (encodePart s r next).seqB = s.seqB := rfl
@[simp] theorem encodePart_encoded (s : State) (r : List Instr × Enc) (next : List Instr) : (encodePart s r next).encoded = s.encoded := rfl
@[simp] theorem encodePart_env (s : State) (r : List Instr × Enc) (next : List Instr) : (encodePart s r next).env = s.env := rfl
@[simp] theorem encodePart_script (s : State) (r : List Instr × Enc) (next : List Instr) : (encodePart s r next).script = s.script := rfl
@[simp] theorem encodePart_envCount (s : State) (r : List Instr × Enc) (next : List Instr) : (encodePart s r next).envCount = s.envCount := rfl

@[simp] theorem raiseOverrun_params (s : State) (cause : OverrunCause) : (raiseOverrun s cause).params = s.params := rfl
@[simp] theorem raiseOverrun_session_sampleRate (s : State) (cause : OverrunCause) : (raiseOverrun s cause).session.sampleRate = s.session.sampleRate := rfl
@[simp] theorem raiseOverrun_session_numSamples (s : State) (cause : OverrunCause) : (raiseOverrun s cause).session.numSamples = s.session.numSamples := rfl
@[simp] theorem raiseOverrun_session_analogMask (s : State) (cause : OverrunCause) : (raiseOverrun s cause).session.analogMask = s.session.analogMask := rfl
@[simp] theorem raiseOverrun_session_digitalMask (s : State) (cause : OverrunCause) : (raiseOverrun s cause).session.digitalMask = s.session.digitalMask := rfl
@[simp] theorem raiseOverrun_session_analogCount (s : State) (cause : OverrunCause) : (raiseOverrun s cause).session.analogCount = s.session.analogCount := rfl
@[simp] theorem raiseOverrun_session_digitalCount (s : State) (cause : OverrunCause) : (raiseOverrun s cause).session.digitalCount = s.session.digitalCount := rfl
@[simp] theorem raiseOverrun_session_dnps (s : State) (cause : OverrunCause) : (raiseOverrun s cause).session.dnps = s.session.dnps := rfl
@[simp] theorem raiseOverrun_session_txBytesPerSample (s : State) (cause : OverrunCause) : (raiseOverrun s cause).session.txBytesPerSample = s.session.txBytesPerSample := rfl
@[simp] theorem raiseOverrun_session_digHalf0Off (s : State) (cause : OverrunCause) : (raiseOverrun s cause).session.digHalf0Off = s.session.digHalf0Off := rfl
@[simp] theorem raiseOverrun_session_digHalf1Off (s : State) (cause : OverrunCause) : (raiseOverrun s cause).session.digHalf1Off = s.session.digHalf1Off := rfl
@[simp] theorem raiseOverrun_session_anaHalf0Off (s : State) (cause : OverrunCause) : (raiseOverrun s cause).session.anaHalf0Off = s.session.anaHalf0Off := rfl
@[simp] theorem raiseOverrun_session_anaHalf1Off (s : State) (cause : OverrunCause) : (raiseOverrun s cause).session.anaHalf1Off = s.session.anaHalf1Off := rfl
@[simp] theorem raiseOverrun_session_digHalfSize (s : State) (cause : OverrunCause) : (raiseOverrun s cause).session.digHalfSize = s.session.digHalfSize := rfl
@[simp] theorem raiseOverrun_session_anaHalfSize (s : State) (cause : OverrunCause) : (raiseOverrun s cause).session.anaHalfSize = s.session.anaHalfSize := rfl
@[simp] theorem raiseOverrun_session_samplesPerHalf (s : State) (cause : OverrunCause) : (raiseOverrun s cause).session.samplesPerHalf = s.session.samplesPerHalf := rfl
@[simp] theorem raiseOverrun_session_maskOverrunAsBenign (s : State) (cause : OverrunCause) : (raiseOverrun s cause).session.maskOverrunAsBenign = s.session.maskOverrunAsBenign := rfl
@[simp] theorem raiseOverrun_session_variant (s : State) (cause : OverrunCause) : (raiseOverrun s cause).session.variant = s.session.variant := rfl
@[simp] theorem raiseOverrun_session_started (s : State) (cause : OverrunCause) : (raiseOverrun s cause).session.started = s.session.started := rfl
@[simp] theorem raiseOverrun_session_sending (s : State) (cause : OverrunCause) : (raiseOverrun s cause).session.sending = false := rfl
@[simp] theorem raiseOverrun_session_continuous (s : State) (cause : OverrunCause) : (raiseOverrun s cause).session.continuous = s.session.continuous := rfl
@[simp] theorem raiseOverrun_session_aborted (s : State) (cause : OverrunCause) : (raiseOverrun s cause).session.aborted = true := rfl
@[simp] theorem raiseOverrun_session_samplesSentCount (s : State) (cause : OverrunCause) : (raiseOverrun s cause).session.samplesSentCount = s.session.samplesSentCount := rfl
@[simp] theorem raiseOverrun_session_bytesSentCount (s : State) (cause : OverrunCause) : (raiseOverrun s cause).session.bytesSentCount = s.session.bytesSentCount := rfl
@[simp] theorem raiseOverrun_session_cmdBuf (s : State) (cause : OverrunCause) : (raiseOverrun s cause).session.cmdBuf = s.session.cmdBuf := rfl
@[simp] theorem raiseOverrun_session_rsp (s : State) (cause : OverrunCause) : (raiseOverrun s cause).session.rsp = s.session.rsp := rfl
@[simp] theorem raiseOverrun_session_armReqSeq (s : State) (cause : OverrunCause) : (raiseOverrun s cause).session.armReqSeq = s.session.armReqSeq := rfl
@[simp] theorem raiseOverrun_session_armAckSeq (s : State) (cause : OverrunCause) : (raiseOverrun s cause).session.armAckSeq = s.session.armAckSeq := rfl
@[simp] theorem raiseOverrun_ctrlState (s : State) (cause : OverrunCause) : (raiseOverrun s cause).ctrlState = .aborted := rfl
@[simp] theorem raiseOverrun_curHalf (s : State) (cause : OverrunCause) : (raiseOverrun s cause).curHalf = s.curHalf := rfl
@[simp] theorem raiseOverrun_aIter (s : State) (cause : OverrunCause) : (raiseOverrun s cause).aIter = s.aIter := rfl
@[simp] theorem raiseOverrun_dma (s : State) (cause : OverrunCause) : (raiseOverrun s cause).dma = s.dma := rfl
@[simp] theorem raiseOverrun_sampler (s : State) (cause : OverrunCause) : (raiseOverrun s cause).sampler = s.sampler := rfl
@[simp] theorem raiseOverrun_adc (s : State) (cause : OverrunCause) : (raiseOverrun s cause).adc = s.adc := rfl
@[simp] theorem raiseOverrun_enc (s : State) (cause : OverrunCause) : (raiseOverrun s cause).enc = s.enc := rfl
@[simp] theorem raiseOverrun_tx (s : State) (cause : OverrunCause) : (raiseOverrun s cause).tx = ⟨s.tx.buf, s.tx.lastWriteUs,
      s.nowUs + BitVec.ofNat 64 s.params.abortMarkerPeriodUs⟩ := rfl
@[simp] theorem raiseOverrun_wakeEvt (s : State) (cause : OverrunCause) : (raiseOverrun s cause).wakeEvt = s.wakeEvt := rfl
@[simp] theorem raiseOverrun_arena (s : State) (cause : OverrunCause) : (raiseOverrun s cause).arena = s.arena := rfl
@[simp] theorem raiseOverrun_port (s : State) (cause : OverrunCause) : (raiseOverrun s cause).port = s.port := rfl
@[simp] theorem raiseOverrun_nowUs (s : State) (cause : OverrunCause) : (raiseOverrun s cause).nowUs = s.nowUs := rfl
@[simp] theorem raiseOverrun_seqA (s : State) (cause : OverrunCause) : (raiseOverrun s cause).seqA = ⟨s.seqA.pos, .outMarker :: s.seqA.todo⟩ := rfl
@[simp] theorem raiseOverrun_seqB (s : State) (cause : OverrunCause) : (raiseOverrun s cause).seqB = s.seqB := rfl
@[simp] theorem raiseOverrun_encoded (s : State) (cause : OverrunCause) : (raiseOverrun s cause).encoded = s.encoded := rfl
@[simp] theorem raiseOverrun_env (s : State) (cause : OverrunCause) : (raiseOverrun s cause).env = s.env := rfl
@[simp] theorem raiseOverrun_script (s : State) (cause : OverrunCause) : (raiseOverrun s cause).script = s.script := rfl
@[simp] theorem raiseOverrun_envCount (s : State) (cause : OverrunCause) : (raiseOverrun s cause).envCount = s.envCount := rfl

/-! ## Byte arrays -/

@[simp] theorem ByteBuf.push_live (buf : ByteBuf) (b : Byte) : (buf.push b).live = buf.live ++ [b] := rfl
@[simp] theorem ByteBuf.push_stale (buf : ByteBuf) (b : Byte) :
    (buf.push b).stale = buf.stale.drop 1 := rfl
@[simp] theorem ByteBuf.clear_live (buf : ByteBuf) : buf.clear.live = [] := rfl
@[simp] theorem ByteBuf.clear_stale (buf : ByteBuf) : buf.clear.stale = buf.live ++ buf.stale := rfl

/-- Clearing keeps the length of the array. -/
@[simp] theorem ByteBuf.clear_capacity (buf : ByteBuf) : buf.clear.capacity = buf.capacity := by
  simp [ByteBuf.capacity]

/-- Storing a byte in an array that is not full keeps its length. -/
theorem ByteBuf.push_capacity (buf : ByteBuf) (b : Byte) (h : buf.live.length < buf.capacity) :
    (buf.push b).capacity = buf.capacity := by
  simp [ByteBuf.capacity] at h ⊢
  omega

/-! ## Channels -/

@[simp] theorem DmaBank.get_set_self (d : DmaBank) (c : Chan) (v : DmaChan) :
    (d.set c v).get c = v := by cases c <;> rfl

theorem DmaBank.get_set_of_ne (d : DmaBank) (c c' : Chan) (v : DmaChan) (h : c' ≠ c) :
    (d.set c v).get c' = d.get c' := by
  cases c <;> cases c' <;> first | rfl | exact absurd rfl h

theorem DmaBank.get_set (d : DmaBank) (c c' : Chan) (v : DmaChan) :
    (d.set c v).get c' = if c' = c then v else d.get c' := by
  cases c <;> cases c' <;> rfl

@[simp] theorem State.chan_pushA (s : State) (ops : List Instr) (c : Chan) :
    (s.pushA ops).chan c = s.chan c := rfl

@[simp] theorem State.chan_setChan_self (s : State) (c : Chan) (v : DmaChan) :
    (s.setChan c v).chan c = v := by simp [State.chan]

theorem State.chan_setChan (s : State) (c c' : Chan) (v : DmaChan) :
    (s.setChan c v).chan c' = if c' = c then v else s.chan c' := by
  simp [State.chan, DmaBank.get_set]

end Sys2Proof.Machine
end

