-- ==== Sys2Proof/Laws/Memory.lean ====
section
/-! SUPPORT. Laws/Memory.lean: the arena: a read after a write, the canonical form kept by every write, and
what the checked accesses of 20_memory.md rule R65 can do. -/

namespace Sys2Proof.Machine

/-! ## One byte -/

/-- What has been written after a write: at its offset the byte written, elsewhere what was there. -/
theorem writtenByte_writeByte (m : Memory) (a x : Nat) (b : Byte) :
    writtenByte (writeByte m a b) x = if x = a then some b else writtenByte m x := by
  induction m with
  | nil => simp [writeByte, writtenByte]
  | cons cell m ih =>
    obtain ⟨a', b'⟩ := cell
    simp only [writeByte]
    split
    · simp [writtenByte]
    · split
      · rename_i h
        subst h
        by_cases hx : x = a <;> simp [writtenByte, hx]
      · rename_i h
        by_cases hx : x = a'
        · subst hx
          simp [writtenByte, Ne.symm h]
        · simp [writtenByte, hx, ih]

/-- What a byte reads as after a write. -/
theorem readByte_writeByte (m : Memory) (a x : Nat) (b : Byte) :
    readByte (writeByte m a b) x = if x = a then b else readByte m x := by
  unfold readByte
  rw [writtenByte_writeByte]
  split <;> rfl

/-- A read after a write of the same offset gives the byte written. -/
@[simp] theorem readByte_writeByte_self (m : Memory) (a : Nat) (b : Byte) :
    readByte (writeByte m a b) a = b := by
  rw [readByte_writeByte, if_pos rfl]

/-- A write leaves every other offset alone. -/
theorem readByte_writeByte_of_ne (m : Memory) (a x : Nat) (b : Byte) (h : x ≠ a) :
    readByte (writeByte m a b) x = readByte m x := by
  rw [readByte_writeByte, if_neg h]

/-! ## The canonical form -/

theorem Memory.wf_tail {cell : Host.Cell} {m : Memory} (h : Memory.wf (cell :: m) = true) :
    Memory.wf m = true := by
  cases m with
  | nil => rfl
  | cons d m =>
    simp only [Memory.wf, Bool.and_eq_true] at h
    exact h.2

/-- The canonical form of a longer list. -/
theorem Memory.wf_cons_cons (c d : Host.Cell) (m : Memory) :
    Memory.wf (c :: d :: m) = true ↔ c.1 < d.1 ∧ Memory.wf (d :: m) = true := by
  simp [Memory.wf]

/-- The first entry of what a write gives lies at the offset written or where the first entry lay. -/
theorem writeByte_head (m : Memory) (a : Nat) (b : Byte) :
    ∃ c rest, writeByte m a b = c :: rest ∧ (c.1 = a ∨ ∃ d tl, m = d :: tl ∧ c.1 = d.1) := by
  cases m with
  | nil => exact ⟨(a, b), [], rfl, .inl rfl⟩
  | cons d tl =>
    obtain ⟨a', b'⟩ := d
    unfold writeByte
    split
    · exact ⟨_, _, rfl, .inl rfl⟩
    · split
      · exact ⟨_, _, rfl, .inl rfl⟩
      · exact ⟨_, _, rfl, .inr ⟨_, _, rfl, rfl⟩⟩

/-- A write keeps the offsets strictly rising. -/
theorem Memory.wf_writeByte (m : Memory) (a : Nat) (b : Byte) (h : Memory.wf m = true) :
    Memory.wf (writeByte m a b) = true := by
  induction m with
  | nil => rfl
  | cons cell m ih =>
    obtain ⟨a', b'⟩ := cell
    unfold writeByte
    split
    · rename_i hlt
      exact (Memory.wf_cons_cons _ _ _).2 ⟨hlt, h⟩
    · split
      · rename_i heq
        subst heq
        cases m with
        | nil => rfl
        | cons d tl => exact (Memory.wf_cons_cons _ _ _).2 ((Memory.wf_cons_cons _ _ _).1 h)
      · rename_i hnlt hne
        obtain ⟨c, rest, hw, hc⟩ := writeByte_head m a b
        have ih' := ih (Memory.wf_tail h)
        rw [hw] at ih' ⊢
        refine (Memory.wf_cons_cons _ _ _).2 ⟨?_, ih'⟩
        obtain hc | ⟨d, tl, rfl, hc⟩ := hc
        · have : a' < a := by omega
          simpa [hc] using this
        · have := ((Memory.wf_cons_cons _ _ _).1 h).1
          simpa [hc] using this

/-- A write inside a bound keeps every entry inside it. -/
theorem writeByte_inside (m : Memory) (a n : Nat) (b : Byte) (ha : a < n)
    (h : ∀ cell ∈ m, cell.1 < n) : ∀ cell ∈ writeByte m a b, cell.1 < n := by
  induction m with
  | nil => simpa [writeByte] using ha
  | cons cell m ih =>
    obtain ⟨a', b'⟩ := cell
    have ha' : a' < n := h (a', b') (by simp)
    have hm : ∀ c ∈ m, c.1 < n := fun c hc => h c (by simp [hc])
    unfold writeByte
    split
    · intro c hc
      simp only [List.mem_cons] at hc
      obtain rfl | rfl | hc := hc
      · exact ha
      · exact ha'
      · exact hm c hc
    · split
      · intro c hc
        simp only [List.mem_cons] at hc
        obtain rfl | hc := hc
        · exact ha
        · exact hm c hc
      · intro c hc
        simp only [List.mem_cons] at hc
        obtain rfl | hc := hc
        · exact ha'
        · exact ih hm c hc

/-! ## Several bytes -/

/-- What a byte reads as after a run of bytes has been written. -/
theorem readByte_writeBytes (m : Memory) (a x : Nat) (bs : List Byte) :
    readByte (writeBytes m a bs) x =
      if a ≤ x then (bs[x - a]?).getD (readByte m x) else readByte m x := by
  induction bs generalizing m a with
  | nil => simp [writeBytes]
  | cons b bs ih =>
    rw [writeBytes, ih, readByte_writeByte]
    obtain hx | rfl | hx := Nat.lt_trichotomy x a
    · rw [if_neg (by omega), if_neg (by omega), if_neg (by omega)]
    · simp
    · obtain ⟨k, rfl⟩ : ∃ k, x = a + (k + 1) := ⟨x - a - 1, by omega⟩
      rw [if_pos (by omega), if_neg (by omega), if_pos (by omega),
        show a + (k + 1) - (a + 1) = k by omega, show a + (k + 1) - a = k + 1 by omega,
        List.getElem?_cons_succ]

/-- A run of writes leaves the bytes outside it alone. -/
theorem readByte_writeBytes_of_outside (m : Memory) (a x : Nat) (bs : List Byte)
    (h : x < a ∨ a + bs.length ≤ x) : readByte (writeBytes m a bs) x = readByte m x := by
  rw [readByte_writeBytes]
  split
  · rw [List.getElem?_eq_none (by omega), Option.getD_none]
  · rfl

/-- A run of writes keeps the canonical form. -/
theorem Memory.wf_writeBytes (m : Memory) (a : Nat) (bs : List Byte) (h : Memory.wf m = true) :
    Memory.wf (writeBytes m a bs) = true := by
  induction bs generalizing m a with
  | nil => exact h
  | cons b bs ih => exact ih _ _ (Memory.wf_writeByte m a b h)

/-- A run of writes inside a bound keeps every entry inside it. -/
theorem writeBytes_inside (m : Memory) (a n : Nat) (bs : List Byte) (ha : a + bs.length ≤ n)
    (h : ∀ cell ∈ m, cell.1 < n) : ∀ cell ∈ writeBytes m a bs, cell.1 < n := by
  induction bs generalizing m a with
  | nil => exact h
  | cons b bs ih =>
    simp only [List.length_cons] at ha
    exact ih _ _ (by omega) (writeByte_inside m a n b (by omega) h)

@[simp] theorem readBytes_length (m : Memory) (a n : Nat) : (readBytes m a n).length = n := by
  induction n generalizing a with
  | zero => rfl
  | succ n ih => simp [readBytes, ih]

/-- `readBytes` answers the bytes at consecutive offsets. -/
theorem readBytes_getElem? (m : Memory) (a n i : Nat) (h : i < n) :
    (readBytes m a n)[i]? = some (readByte m (a + i)) := by
  induction n generalizing a i with
  | zero => omega
  | succ n ih =>
    cases i with
    | zero => rfl
    | succ i => simp [readBytes, ih (a + 1) i (by omega), Nat.add_assoc, Nat.add_comm 1 i]

@[simp] theorem leBytes_length (v : Word) (n : Nat) : (leBytes v n).length = n := by
  simp [leBytes]

/-- The bytes of a word, one by one (20_memory.md rule R62). -/
theorem leBytes_getElem? (v : Word) (n i : Nat) (h : i < n) :
    (leBytes v n)[i]? = some ((v >>> (8 * i)).setWidth 8) := by
  simp [leBytes, h]

/-! ## The checked accesses (20_memory.md rule R65) -/

/-- When an access is inside the arena and aligned, and which fault it is otherwise. -/
theorem checkAccess_eq (s : State) (addr n : Nat) :
    checkAccess s addr n =
      if addr + n ≤ s.params.arenaCapacity then
        if n ∣ addr then .ok () else .error (.arenaAlign addr)
      else .error (.arenaRange addr) := by
  unfold checkAccess
  by_cases h : addr + n ≤ s.params.arenaCapacity
  · rw [if_neg (by omega), if_pos h]
    by_cases hd : n ∣ addr
    · simp [Nat.mod_eq_zero_of_dvd hd, hd]
    · have : addr % n ≠ 0 := fun h0 => hd (Nat.dvd_of_mod_eq_zero h0)
      simp [this, hd]
  · rw [if_pos (by omega), if_neg h]

/-- What a write of the arena can do. -/
theorem memWrite_ok {s t : State} {addr n : Nat} {v : Word} (h : memWrite s addr n v = .ok t) :
    addr + n ≤ s.params.arenaCapacity ∧ n ∣ addr ∧
      t = { s with arena := writeBytes s.arena addr (leBytes v n) } := by
  unfold memWrite at h
  rw [checkAccess_eq] at h
  split at h
  · cases h
  · rename_i hc
    split at hc
    · split at hc
      · rename_i h1 h2
        exact ⟨h1, h2, by simpa using h.symm⟩
      · cases hc
    · cases hc

/-- What a read of the arena does: it answers inside the arena and aligned, and else faults. -/
theorem memRead_eq (s : State) (addr n : Nat) :
    memRead s addr n =
      if addr + n ≤ s.params.arenaCapacity then
        if n ∣ addr then .ok (leWord (readBytes s.arena addr n)) else .error (.arenaAlign addr)
      else .error (.arenaRange addr) := by
  unfold memRead
  rw [checkAccess_eq]
  split_ifs <;> rfl

/-- What a read of the arena that answers has read. -/
theorem memRead_ok {s : State} {addr n : Nat} {v : Word} (h : memRead s addr n = .ok v) :
    addr + n ≤ s.params.arenaCapacity ∧ n ∣ addr ∧ v = leWord (readBytes s.arena addr n) := by
  rw [memRead_eq] at h
  split_ifs at h with h1 h2
  exact ⟨h1, h2, by simpa using h.symm⟩

/-- An access that is inside the arena and aligned completes. -/
theorem memRead_complete (s : State) (addr n : Nat) (hr : addr + n ≤ s.params.arenaCapacity)
    (ha : n ∣ addr) : memRead s addr n = .ok (leWord (readBytes s.arena addr n)) := by
  rw [memRead_eq, if_pos hr, if_pos ha]

/-- A write that is inside the arena and aligned completes. -/
theorem memWrite_complete (s : State) (addr n : Nat) (v : Word)
    (hr : addr + n ≤ s.params.arenaCapacity) (ha : n ∣ addr) :
    memWrite s addr n v = .ok { s with arena := writeBytes s.arena addr (leBytes v n) } := by
  simp [memWrite, checkAccess_eq, hr, ha]

/-- The arena after reset has the canonical form. -/
theorem reset_arena_wf (p : Params) : Memory.wf (State.resetWith p).arena = true := rfl

end Sys2Proof.Machine
end

