-- ==== Sys2Proof/Laws/Ops.lean ====
section
/-! SUPPORT. Laws/Ops.lean: for each shared operation of Machine/Ops.lean, once, everything it can do. -/

namespace Sys2Proof.Machine

/-! ## Outcomes -/

@[simp] theorem andThen_next (s : State) (f : State → Out) : andThen (.next s) f = f s := rfl
@[simp] theorem andThen_fault (e : Fault) (f : State → Out) : andThen (.fault e) f = .fault e := rfl
@[simp] theorem andThen_refused (e : Refusal) (f : State → Out) :
    andThen (.refused e) f = .refused e := rfl
@[simp] theorem withValue_ok {α : Type} (v : α) (f : α → Out) : withValue (.ok v) f = f v := rfl
@[simp] theorem withValue_error {α : Type} (e : Fault) (f : α → Out) :
    withValue (.error e) f = .fault e := rfl
@[simp] theorem ofExcept_ok (s : State) : ofExcept (.ok s) = .next s := rfl
@[simp] theorem ofExcept_error (e : Fault) : ofExcept (.error e) = .fault e := rfl

/-- A next state of two operations in a row goes through a next state of the first. -/
theorem andThen_eq_next {o : Out} {f : State → Out} {t : State} :
    andThen o f = .next t ↔ ∃ s, o = .next s ∧ f s = .next t := by
  cases o <;> simp [andThen]

/-- A next state after an access goes through a value of the access. -/
theorem withValue_eq_next {α : Type} {r : Except Fault α} {f : α → Out} {t : State} :
    withValue r f = .next t ↔ ∃ v, r = .ok v ∧ f v = .next t := by
  cases r <;> simp [withValue]

theorem ofExcept_eq_next {r : Except Fault State} {t : State} :
    ofExcept r = .next t ↔ r = .ok t := by
  cases r <;> simp [ofExcept, withValue]

/-! ## DMA channels -/

/-- Everything a trigger can do (42_dma_capture.md rule R197). -/
theorem dmaTriggerOp_ok {s t : State} {c : Chan} :
    dmaTriggerOp s c = .ok t ↔
      ((s.chan c).busy = true ∧ t = s) ∨
      ((s.chan c).busy = false ∧ (s.chan c).reload ≠ 0 ∧
        t = s.setChan c { s.chan c with count := (s.chan c).reload, busy := true }) := by
  unfold dmaTriggerOp
  cases hb : (s.chan c).busy
  · by_cases hr : (s.chan c).reload = 0
    · simp [hb, hr]
    · simp only [hb, hr, Bool.false_eq_true, if_false, Except.ok.injEq, false_and, false_or, ne_eq,
        not_false_eq_true, true_and]
      exact eq_comm
  · simp only [hb, if_true, Except.ok.injEq, true_and, reduceCtorEq, false_and, or_false]
    exact eq_comm

/-- Everything a completion can do (42_dma_capture.md rules R199, R200). -/
theorem dmaCompleteOp_ok {s t : State} {c : Chan} :
    dmaCompleteOp s c = .ok t ↔
      ((s.chan c).chainTo = c ∧ t = s.setChan c { s.chan c with busy := false }) ∨
      ((s.chan c).chainTo ≠ c ∧
        dmaTriggerOp (s.setChan c { s.chan c with busy := false }) (s.chan c).chainTo = .ok t) := by
  unfold dmaCompleteOp
  by_cases h : (s.chan c).chainTo = c
  · simp only [h, if_true, Except.ok.injEq, true_and, ne_eq, not_true_eq_false, false_and, or_false]
    exact eq_comm
  · simp [h]

/-- Everything the configuration of a channel can do (42_dma_capture.md rule R191). -/
theorem dmaConfigureOp_ok {s t : State} {c tgt : Chan} {addr n : Word} :
    dmaConfigureOp s c addr n tgt = .ok t ↔
      (s.chan c).busy = false ∧
        t = s.setChan c
          { s.chan c with writeAddr := addr, reload := n, chainTo := tgt, count := 0 } := by
  unfold dmaConfigureOp
  cases hb : (s.chan c).busy
  · simp only [hb, Bool.false_eq_true, if_false, Except.ok.injEq, true_and]
    exact eq_comm
  · simp [hb]

/-- Everything a write of a write address can do (42_dma_capture.md rule R209). -/
theorem setWriteAddr_ok {s t : State} {c : Chan} {addr : Word} :
    setWriteAddr s c addr = .ok t ↔
      (s.chan c).busy = false ∧ t = s.setChan c { s.chan c with writeAddr := addr } := by
  unfold setWriteAddr
  cases hb : (s.chan c).busy
  · simp only [Bool.false_eq_true, if_false, Except.ok.injEq, true_and]
    exact eq_comm
  · simp

/-- What a pop of a source FIFO takes, and that nothing but the two FIFOs changes
(42_dma_capture.md rule R196). -/
theorem popSource_some {s t : State} {c : Chan} {u : Word} (h : popSource s c = some (u, t)) :
    ((c = .d0 ∨ c = .d1) ∧ ∃ rest, s.sampler.fifo = u :: rest ∧
      t = { s with sampler := { s.sampler with fifo := rest } }) ∨
    ((c = .a0 ∨ c = .a1) ∧ ∃ b rest, s.adc.fifo = b :: rest ∧ u = b.setWidth 32 ∧
      t = { s with adc := { s.adc with fifo := rest } }) := by
  cases c <;> simp only [popSource] at h <;> split at h <;> cases h <;> simp [*]

/-- Everything a transfer can do (42_dma_capture.md rule R198). -/
theorem dmaXferOp_ok {s t : State} {c : Chan} (h : dmaXferOp s c = .ok t) :
    t = s ∨ ∃ u s1 s2, (s.chan c).busy = true ∧ popSource s c = some (u, s1) ∧
      memWrite s1 (s.chan c).writeAddr.toNat (s.chan c).xfer.bytes u = .ok s2 ∧
      (((s.chan c).count - 1 ≠ 0 ∧
        t = s2.setChan c
          { s.chan c with
            writeAddr := (s.chan c).writeAddr + BitVec.ofNat 32 (s.chan c).xfer.bytes
            count := (s.chan c).count - 1 }) ∨
      ((s.chan c).count - 1 = 0 ∧
        dmaCompleteOp (s2.setChan c
          { s.chan c with
            writeAddr := (s.chan c).writeAddr + BitVec.ofNat 32 (s.chan c).xfer.bytes
            count := (s.chan c).count - 1 }) c = .ok t)) := by
  unfold dmaXferOp at h
  split at h
  · rename_i hb
    split at h
    · exact .inl (by simpa using h.symm)
    · rename_i u s1 hp
      dsimp only at h
      have hch : s1.chan c = s.chan c := by
        obtain ⟨-, rest, -, rfl⟩ | ⟨-, b, rest, -, -, rfl⟩ := popSource_some hp <;> rfl
      split at h
      · cases h
      · rename_i s2 hw
        refine .inr ⟨u, s1, s2, hb, hp, hw, ?_⟩
        split at h
        · rename_i hc
          exact .inr ⟨hc, h⟩
        · rename_i hc
          exact .inl ⟨hc, by simpa using h.symm⟩
  · exact .inl (by simpa using h.symm)

/-! ## Peripherals -/

/-- Everything a delivery of the sampler can do (42_dma_capture.md rule R203). -/
theorem samplerDeliver_cases (s : State) (w : Word) :
    (s.sampler.running = false ∧ samplerDeliver s w = s) ∨
    (s.sampler.running = true ∧ s.sampler.fifo.length < s.params.samplerFifoDepth ∧
      samplerDeliver s w = { s with sampler := { s.sampler with fifo := s.sampler.fifo ++ [w] } }) ∨
    (s.sampler.running = true ∧ s.params.samplerFifoDepth ≤ s.sampler.fifo.length ∧
      samplerDeliver s w = { s with sampler := { s.sampler with rxStall := true } }) := by
  unfold samplerDeliver
  cases hr : s.sampler.running
  · simp
  · by_cases hl : s.sampler.fifo.length < s.params.samplerFifoDepth
    · simp [hl, hr]
    · simp [hl, hr, Nat.le_of_not_lt hl]

/-- Everything a delivery of the ADC can do (42_dma_capture.md rule R203). -/
theorem adcDeliver_cases (s : State) (b : Byte) :
    (s.adc.running = false ∧ adcDeliver s b = s) ∨
    (s.adc.running = true ∧ s.adc.fifo.length < s.params.adcFifoDepth ∧
      adcDeliver s b = { s with adc := { s.adc with fifo := s.adc.fifo ++ [b] } }) ∨
    (s.adc.running = true ∧ s.params.adcFifoDepth ≤ s.adc.fifo.length ∧
      adcDeliver s b = { s with adc := { s.adc with fifoOverflow := true } }) := by
  unfold adcDeliver
  cases hr : s.adc.running
  · simp
  · by_cases hl : s.adc.fifo.length < s.params.adcFifoDepth
    · simp [hl, hr]
    · simp [hl, hr, Nat.le_of_not_lt hl]

/-- The state after StopCapture, field by field (42_dma_capture.md rule R220). -/
theorem stopCapture_eq (s : State) :
    stopCapture s =
      { s with
        sampler := ⟨false, s.sampler.rxStall, []⟩
        adc := ⟨false, s.adc.fifoOverflow, []⟩
        dma := ⟨{ s.dma.d0 with busy := false, count := 0 },
          { s.dma.d1 with busy := false, count := 0 },
          { s.dma.a0 with busy := false, count := 0 },
          { s.dma.a1 with busy := false, count := 0 }⟩ } := rfl

/-! ## Transmitter -/

/-- Everything Emit can do (46_transmitter.md rule R288; 60_exceptions.md rule R343). -/
theorem emitByte_eq (s : State) (b : Byte) :
    emitByte s b =
      if b.toNat < 0x30 then .fault (.emitReserved b)
      else if s.tx.buf.live.length = s.params.txbufCapacity then
        .next (s.pushA [.txflush .start, .emit b])
      else
        .next { s with
          tx := { s.tx with buf := s.tx.buf.push b }
          encoded := s.encoded ++ [b] } := rfl

/-- The transport never accepts more than it is offered (46_transmitter.md rule R285). -/
theorem portAccepts_le (e : Env) (n : Nat) : portAccepts e n ≤ n := by
  unfold portAccepts
  split
  · exact Nat.le_refl n
  · exact Nat.min_le_right _ _

/-- What is no more than the transport has room for is accepted whole (46_transmitter.md rule R285). -/
theorem portAccepts_of_room (e : Env) (n : Nat) (h : n ≤ e.availableAtCall) :
    portAccepts e n = n := by
  simp [portAccepts, h]

/-- Everything an iteration of Send's loop can do (46_transmitter.md rule R291): hand over a first part
of the data, drop the rest, or go round again. -/
theorem sendIteration_cases (s : State) (who : Sequencer) (data : List Byte) (counted : Bool) :
    (∃ k, k ≤ data.length ∧ k ≤ s.env.writeAvailable ∧ 0 < min data.length s.env.writeAvailable ∧
      ((data.drop k = [] ∧ sendIteration s who data counted = portWrite s data k counted) ∨
       (data.drop k ≠ [] ∧ sendIteration s who data counted =
        (portWrite s data k counted).push who [.send who .loop (data.drop k) counted]))) ∨
    (min data.length s.env.writeAvailable = 0 ∧
      (s.env.connectedLater = false ∨ sendTimedOut s = true) ∧
      sendIteration s who data counted = s) ∨
    (min data.length s.env.writeAvailable = 0 ∧ s.env.connectedLater = true ∧
      sendTimedOut s = false ∧
      sendIteration s who data counted = s.push who [.send who .loop data counted]) := by
  unfold sendIteration
  by_cases hn : 0 < min data.length s.env.writeAvailable
  · refine .inl ⟨portAccepts s.env (min data.length s.env.writeAvailable), ?_, ?_, hn, ?_⟩
    · exact (portAccepts_le _ _).trans (Nat.min_le_left _ _)
    · exact (portAccepts_le _ _).trans (Nat.min_le_right _ _)
    · by_cases hd : data.drop (portAccepts s.env (min data.length s.env.writeAvailable)) = []
      · exact .inl ⟨hd, by rw [if_pos hn, if_pos hd]⟩
      · exact .inr ⟨hd, by rw [if_pos hn, if_neg hd]⟩
  · have h0 : min data.length s.env.writeAvailable = 0 := by omega
    rw [if_neg hn]
    cases hc : s.env.connectedLater
    · exact .inr (.inl ⟨h0, .inl rfl, by simp⟩)
    · cases ht : sendTimedOut s
      · exact .inr (.inr ⟨h0, rfl, rfl, by simp⟩)
      · exact .inr (.inl ⟨h0, .inr rfl, by simp⟩)

/-! ## Reset -/

/-- What survives a soft reset (70_reset_and_hazards.md rule R363). -/
theorem softResetOp_survives (s : State) :
    (softResetOp s).arena = s.arena ∧ (softResetOp s).port = s.port ∧
      (softResetOp s).nowUs = s.nowUs ∧ (softResetOp s).params = s.params ∧
      (softResetOp s).session.cmdBuf = s.session.cmdBuf.clear ∧
      (softResetOp s).tx.buf = s.tx.buf.clear := ⟨rfl, rfl, rfl, rfl, rfl, rfl⟩

/-- Both sequencers stand at the top of their loops after a soft reset, with nothing in progress. -/
theorem softResetOp_positions (s : State) :
    (softResetOp s).seqA = ⟨.top, []⟩ ∧ (softResetOp s).seqB = ⟨.top, []⟩ := ⟨rfl, rfl⟩

/-! ## Commands -/

/-- Everything PLAN can do (41_buffer_planner.md rules R170, R178). -/
theorem planOp_next {s t : State} :
    planOp s = .next t ↔
      s.params.arenaOk = true ∧ t = { s with session := planSession s.params s.session } := by
  unfold planOp
  cases h : s.params.arenaOk <;> simp [eq_comm]

/-- Everything the start of a capture can do (40_commands.md rules R141, R142). -/
theorem startCapture_next {s t : State} {cont : Bool} (h : startCapture s cont = .next t) :
    s.params.arenaOk = true ∧
      t = { s with session :=
        { planSession s.params { s.session with continuous := cont } with
          armReqSeq := (planSession s.params { s.session with continuous := cont }).armReqSeq + 1
          rsp := [] } } := by
  unfold startCapture at h
  obtain ⟨s1, h1, h2⟩ := andThen_eq_next.1 h
  obtain ⟨hp, rfl⟩ := planOp_next.1 h1
  exact ⟨hp, by simpa [setRsp] using h2.symm⟩

/-- A response is transmitted by operations of SEQ_B, and nothing else changes
(40_commands.md rule R135). -/
theorem respond_cases (s : State) :
    (s.session.rsp = [] ∧ respond s = s) ∨
    (s.session.rsp ≠ [] ∧
      respond s = s.pushB [responseOp s.params s.session.rsp, .dispatch .clear]) := by
  unfold respond
  by_cases h : s.session.rsp = [] <;> simp [h]

/-- PLAN writes no register of the arm handshake, no flag but `mask_overrun_as_benign`, no counter and
no buffer (41_buffer_planner.md rule R170). -/
theorem planSession_keeps (p : Params) (v : Session) :
    (planSession p v).armReqSeq = v.armReqSeq ∧ (planSession p v).armAckSeq = v.armAckSeq ∧
      (planSession p v).started = v.started ∧ (planSession p v).sending = v.sending ∧
      (planSession p v).aborted = v.aborted ∧ (planSession p v).continuous = v.continuous ∧
      (planSession p v).samplesSentCount = v.samplesSentCount ∧
      (planSession p v).bytesSentCount = v.bytesSentCount ∧
      (planSession p v).cmdBuf = v.cmdBuf ∧ (planSession p v).rsp = v.rsp ∧
      (planSession p v).analogMask = v.analogMask ∧ (planSession p v).digitalMask = v.digitalMask := by
  unfold planSession
  dsimp only
  split <;> simp [planDegenerate, planGeometry, planDerive]

end Sys2Proof.Machine
end

