-- ==== Sys2Proof/Laws/Capture.lean ====
section
/-! SUPPORT. Laws/Capture.lean: the enables read one register each; everything the configuration of a pair
of channels can do. -/

namespace Sys2Proof.Machine

/-- `dig_en` depends on one derived register (42_dma_capture.md rule R193). -/
theorem digEn_congr {s t : State} (h : t.session.dnps = s.session.dnps) : digEn t = digEn s := by
  simp [digEn, h]

/-- `ana_en` depends on one derived register (42_dma_capture.md rule R193). -/
theorem anaEn_congr {s t : State} (h : t.session.analogCount = s.session.analogCount) :
    anaEn t = anaEn s := by
  simp [anaEn, h]

/-- `CaptureActive` depends on three registers (47_scheduler.md rule R311). -/
theorem captureActive_congr {s t : State} (h1 : t.session.armReqSeq = s.session.armReqSeq)
    (h2 : t.session.armAckSeq = s.session.armAckSeq)
    (h3 : t.session.started = s.session.started) : captureActive t = captureActive s := by
  simp [captureActive, armPending, h1, h2, h3]

/-- Everything the configuration and start of a pair can do (42_dma_capture.md rule R193). -/
theorem configurePair_ok {s t : State} {c0 c1 : Chan} {off0 off1 n : Word} (hne : c0 ≠ c1) :
    configurePair s c0 c1 off0 off1 n = .ok t ↔
      (s.chan c0).busy = false ∧ (s.chan c1).busy = false ∧ n ≠ 0 ∧
      t = ((s.setChan c0
          { s.chan c0 with
            busy := true, writeAddr := off0, reload := n, chainTo := c1, count := n }).setChan c1
          { s.chan c1 with writeAddr := off1, reload := n, chainTo := c1, count := 0 }) := by
  have hne' : c1 ≠ c0 := hne.symm
  unfold configurePair
  cases h0 : (s.chan c0).busy
  · rw [dmaConfigureOp_ok.2 ⟨h0, rfl⟩]
    simp only
    cases h1 : (s.chan c1).busy
    · rw [dmaConfigureOp_ok.2 ⟨by rw [State.chan_setChan, if_neg hne', h1], rfl⟩]
      simp only [State.chan_setChan, if_neg hne', true_and]
      by_cases hn : n = 0
      · subst hn
        simp only [ne_eq, not_true_eq_false, false_and, iff_false]
        intro h
        obtain ⟨hb, -⟩ | ⟨-, hr, -⟩ := dmaTriggerOp_ok.1 h
        · rw [State.chan_setChan, if_neg hne, State.chan_setChan_self] at hb
          simp [h0] at hb
        · rw [State.chan_setChan, if_neg hne, State.chan_setChan_self] at hr
          exact hr rfl
      · rw [dmaTriggerOp_ok]
        simp only [State.chan_setChan, if_neg hne, if_true, h0, Bool.false_eq_true, false_and,
          false_or, true_and, ne_eq, hn, not_false_eq_true]
        rw [h1]
        refine Eq.congr_right ?_
        cases c0 <;> cases c1 <;> first | exact absurd rfl hne | rfl
    · simp only [Bool.true_eq_false, false_and, and_false, iff_false]
      unfold dmaConfigureOp
      simp [State.chan_setChan, hne', h1]
  · simp only [Bool.true_eq_false, false_and, iff_false]
    unfold dmaConfigureOp
    simp [h0]

end Sys2Proof.Machine
end

