-- ==== Sys2Proof/Laws/Frames.lean ====
section
/-! SUPPORT. Laws/Frames.lean: what the operations of SEQ_A that are no control operations leave alone, and
what they put on the work list; what a command, a parser step and the routing of a character leave alone. -/

namespace Sys2Proof.Machine

/-- The operations of SEQ_A that write neither `ctrl_state` nor a flag of a capture. -/
def isOutputWork (i : Instr) : Bool := opOfA i && !isControl i

/-- What an output operation of SEQ_A may change; it puts output operations only on the work list. -/
structure OutputFrame (s t : State) : Prop where
  same : t = { s with
    session.bytesSentCount := t.session.bytesSentCount
    enc := t.enc
    tx := t.tx
    wakeEvt := t.wakeEvt
    port.wire := t.port.wire
    seqA.todo := t.seqA.todo
    encoded := t.encoded }
  work : ∃ ops, t.seqA.todo = ops ++ s.seqA.todo ∧ ∀ x ∈ ops, isOutputWork x = true

theorem OutputFrame.refl (s : State) : OutputFrame s s := ⟨rfl, [], rfl, by simp⟩

/-- Pushing output work is an output operation's effect. -/
theorem OutputFrame.pushA (s : State) (ops : List Instr) (h : ∀ x ∈ ops, isOutputWork x = true) :
    OutputFrame s (s.pushA ops) := ⟨rfl, ops, rfl, h⟩

/-- So is pushing output work after the encoder registers have been written. -/
theorem OutputFrame.encodePart (s : State) (r : List Instr × Enc) (next : List Instr)
    (h : ∀ x ∈ r.1 ++ next, isOutputWork x = true) : OutputFrame s (encodePart s r next) :=
  ⟨rfl, r.1 ++ next, rfl, h⟩

/-! ## What the parts of the encoders put on the work list -/

theorem flushLong_work (run : Word) : ∀ x ∈ (flushLong run).1, isOutputWork x = true := by
  intro x hx
  simp only [flushLong, List.mem_append, List.mem_replicate] at hx
  obtain ⟨-, rfl⟩ | hx := hx
  · rfl
  · split at hx
    · simp only [List.mem_singleton] at hx
      subst hx
      rfl
    · simp at hx

theorem nibSeed_work (e : Enc) (w : Word) : ∀ x ∈ (nibSeed e w).1, isOutputWork x = true := by
  intro x hx
  simp only [nibSeed, List.mem_map] at hx
  obtain ⟨j, -, rfl⟩ := hx
  rfl

theorem nibStep_work (e : Enc) (v : Nibble) : ∀ x ∈ (nibStep e v).1, isOutputWork x = true := by
  intro x hx
  unfold nibStep at hx
  split at hx
  · simp at hx
  · simp only [List.mem_append, List.mem_cons, List.not_mem_nil, or_false] at hx
    obtain hx | rfl | rfl := hx
    · exact flushLong_work _ x hx
    · rfl
    · rfl

theorem nibSteps_work (e : Enc) (vs : List Nibble) :
    ∀ x ∈ (nibSteps e vs).1, isOutputWork x = true := by
  induction vs generalizing e with
  | nil => simp [nibSteps]
  | cons v vs ih =>
    intro x hx
    simp only [nibSteps, List.mem_append] at hx
    obtain hx | hx := hx
    · exact nibStep_work _ _ x hx
    · exact ih _ x hx

theorem nibWord_work (e : Enc) (w : Word) : ∀ x ∈ (nibWord e w).1, isOutputWork x = true := by
  intro x hx
  unfold nibWord at hx
  split at hx
  · simp at hx
  · exact nibSteps_work _ _ x hx

theorem nibEnd_work (e : Enc) : ∀ x ∈ (nibEnd e).1, isOutputWork x = true := by
  intro x hx
  simp only [nibEnd, List.mem_append] at hx
  obtain hx | hx := hx
  · exact flushLong_work _ x hx
  · split at hx
    · simp at hx
    · simp only [List.mem_singleton] at hx
      subst hx
      rfl

theorem groupOps_work (t : Nat) (v : Word) : ∀ x ∈ groupOps t v, isOutputWork x = true := by
  intro x hx
  simp only [groupOps, List.mem_map] at hx
  obtain ⟨g, -, rfl⟩ := hx
  rfl

theorem brunOp_work (n : Nat) : isOutputWork (brunOp n) = true := by
  unfold brunOp
  split <;> rfl

theorem runOps_work (n : Nat) : ∀ x ∈ runOps n, isOutputWork x = true := by
  intro x hx
  have : ∃ m, x = brunOp m := by
    simp only [runOps, List.mem_append, List.mem_replicate] at hx
    obtain (⟨-, rfl⟩ | hx) | hx := hx
    · exact ⟨_, rfl⟩
    · split at hx <;> simp only [List.mem_singleton, List.not_mem_nil] at hx
      exact ⟨_, hx⟩
    · by_cases hd : 0 < (if Config.byteRunDirectMax < n % Config.byteRunMax then
          n % Config.byteRunMax % 32 else n % Config.byteRunMax)
      · rw [if_pos hd, List.mem_singleton] at hx
        exact ⟨_, hx⟩
      · rw [if_neg hd] at hx
        simp at hx
  obtain ⟨m, rfl⟩ := this
  exact brunOp_work m

theorem byteSeed_work (t : Nat) (e : Enc) (v : Word) :
    ∀ x ∈ (byteSeed t e v).1, isOutputWork x = true := groupOps_work t v

theorem byteStep_work (t : Nat) (e : Enc) (v : Word) :
    ∀ x ∈ (byteStep t e v).1, isOutputWork x = true := by
  intro x hx
  unfold byteStep at hx
  split at hx
  · simp at hx
  · simp only [List.mem_append, List.mem_singleton] at hx
    obtain (hx | hx) | rfl := hx
    · exact runOps_work _ x hx
    · exact groupOps_work _ _ x hx
    · rfl

theorem byteEnd_work (e : Enc) : ∀ x ∈ (byteEnd e).1, isOutputWork x = true :=
  runOps_work _

theorem sliceOut_work (t : Nat) (dig : Option Word) (ana : List Word) :
    ∀ x ∈ sliceOut t dig ana, isOutputWork x = true := by
  intro x hx
  simp only [sliceOut, List.mem_append, List.mem_map, List.mem_singleton] at hx
  obtain (hx | ⟨a, -, rfl⟩) | rfl := hx
  · cases dig with
    | none => simp at hx
    | some v => exact groupOps_work _ _ x hx
  · rfl
  · rfl

theorem sliceOps_work {s : State} {h : Half} {k : Nat} {ops : List Instr}
    (hs : sliceOps s h k = .ok ops) : ∀ x ∈ ops, isOutputWork x = true := by
  unfold sliceOps at hs
  split at hs
  · cases hs
  · split at hs
    · cases hs
    · simp only [Except.ok.injEq] at hs
      subst hs
      exact sliceOut_work _ _ _

/-! ## The operations -/

theorem emitByte_frame {s t : State} {b : Byte} (h : emitByte s b = .next t) :
    OutputFrame s t := by
  rw [emitByte_eq] at h
  split at h
  · cases h
  · split at h
    · cases h
      exact OutputFrame.pushA _ _ (by simp [isOutputWork, opOfA, isControl])
    · cases h
      exact ⟨rfl, [], rfl, by simp⟩

theorem sendIteration_frame (s : State) (data : List Byte) (counted : Bool) :
    OutputFrame s (sendIteration s .a data counted) := by
  obtain ⟨k, -, -, -, ⟨-, h⟩ | ⟨-, h⟩⟩ | ⟨-, -, h⟩ | ⟨-, -, -, h⟩ :=
    sendIteration_cases s .a data counted <;> rw [h]
  · exact ⟨rfl, [], rfl, by simp⟩
  · exact ⟨rfl, [_], rfl, by simp [isOutputWork, opOfA, isControl]⟩
  · exact OutputFrame.refl s
  · exact OutputFrame.pushA _ _ (by simp [isOutputWork, opOfA, isControl])

theorem execEncNibble_frame {s t : State} {pos : EncPos} {h : Half}
    (he : execEncNibble pos h s = .next t) : OutputFrame s t := by
  have hself : ∀ p, isOutputWork (.encNibble p h) = true := fun _ => rfl
  cases pos with
  | start =>
    simp only [execEncNibble] at he
    split at he
    · cases he
      exact OutputFrame.pushA _ _ (by simp [hself])
    · obtain ⟨w, -, hw⟩ := withValue_eq_next.1 he
      cases hw
      refine OutputFrame.encodePart _ _ _ fun x hx => ?_
      obtain hx | hx := List.mem_append.1 hx
      · exact nibSeed_work _ _ x hx
      · simp only [List.mem_singleton] at hx
        subst hx
        rfl
  | index i =>
    simp only [execEncNibble] at he
    split at he
    · obtain ⟨w, -, hw⟩ := withValue_eq_next.1 he
      cases hw
      refine OutputFrame.encodePart _ _ _ fun x hx => ?_
      obtain hx | hx := List.mem_append.1 hx
      · exact nibWord_work _ _ x hx
      · simp only [List.mem_singleton] at hx
        subst hx
        rfl
    · cases he
      exact OutputFrame.pushA _ _ (by simp [hself])
  | finish =>
    simp only [execEncNibble] at he
    cases he
    refine OutputFrame.encodePart _ _ _ fun x hx => ?_
    obtain hx | hx := List.mem_append.1 hx
    · exact nibEnd_work _ x hx
    · simp only [List.mem_singleton] at hx
      subst hx
      rfl

theorem encByte_frame {s t : State} {wd : Nat} {self : EncPos → Instr} {pos : EncPos} {h : Half}
    (hself : ∀ p, isOutputWork (self p) = true) (he : encByte wd self pos h s = .next t) :
    OutputFrame s t := by
  cases pos with
  | start =>
    simp only [encByte] at he
    split at he
    · cases he
      exact OutputFrame.pushA _ _ (by simp [hself])
    · obtain ⟨w, -, hw⟩ := withValue_eq_next.1 he
      cases hw
      refine OutputFrame.encodePart _ _ _ fun x hx => ?_
      obtain hx | hx := List.mem_append.1 hx
      · exact byteSeed_work _ _ _ x hx
      · simp only [List.mem_singleton] at hx
        subst hx
        exact hself _
  | index i =>
    simp only [encByte] at he
    split at he
    · obtain ⟨w, -, hw⟩ := withValue_eq_next.1 he
      cases hw
      refine OutputFrame.encodePart _ _ _ fun x hx => ?_
      obtain hx | hx := List.mem_append.1 hx
      · exact byteStep_work _ _ _ x hx
      · simp only [List.mem_singleton] at hx
        subst hx
        exact hself _
    · cases he
      exact OutputFrame.pushA _ _ (by simp [hself])
  | finish =>
    simp only [encByte] at he
    cases he
    refine OutputFrame.encodePart _ _ _ fun x hx => ?_
    obtain hx | hx := List.mem_append.1 hx
    · exact byteEnd_work _ x hx
    · simp only [List.mem_singleton] at hx
      subst hx
      rfl

theorem execEncInterleave_frame {s t : State} {pos : EncPos} {h : Half}
    (he : execEncInterleave pos h s = .next t) : OutputFrame s t := by
  have hself : ∀ p, isOutputWork (.encInterleave p h) = true := fun _ => rfl
  cases pos with
  | start =>
    simp only [execEncInterleave] at he
    cases he
    exact OutputFrame.pushA _ _ (by simp [hself])
  | index i =>
    simp only [execEncInterleave] at he
    split at he
    · obtain ⟨ops, ho, hw⟩ := withValue_eq_next.1 he
      cases hw
      refine OutputFrame.pushA _ _ fun x hx => ?_
      obtain hx | hx := List.mem_append.1 hx
      · exact sliceOps_work ho x hx
      · simp only [List.mem_singleton] at hx
        subst hx
        rfl
    · cases he
      exact OutputFrame.pushA _ _ (by simp [hself])
  | finish =>
    simp only [execEncInterleave] at he
    cases he
    exact OutputFrame.pushA _ _ (by simp [isOutputWork, opOfA, isControl])

/-- Everything an output operation of SEQ_A can change. -/
theorem exec_outputFrame {i : Instr} {s t : State} (hi : isOutputWork i = true)
    (h : exec i s = .next t) : OutputFrame s t := by
  cases i <;> try (exact absurd hi (by decide))
  case outTagged => exact emitByte_frame h
  case outNrun => exact emitByte_frame h
  case outGroup => exact emitByte_frame h
  case outBrunDirect => exact emitByte_frame h
  case outBrunStep => exact emitByte_frame h
  case outAnalog => exact emitByte_frame h
  case outMarker =>
    cases h
    exact OutputFrame.pushA _ _ (by simp [isOutputWork, opOfA, isControl, sendCall])
  case outRecord =>
    cases h
    exact OutputFrame.pushA _ _ (by simp [isOutputWork, opOfA, isControl, sendCall])
  case encNibble => exact execEncNibble_frame h
  case encByte1 pos hf =>
    exact encByte_frame (wd := 1) (self := fun q => .encByte1 q hf) (fun _ => rfl) h
  case encByte2 pos hf =>
    exact encByte_frame (wd := 2) (self := fun q => .encByte2 q hf) (fun _ => rfl) h
  case encByte4 pos hf =>
    exact encByte_frame (wd := 4) (self := fun q => .encByte4 q hf) (fun _ => rfl) h
  case encInterleave => exact execEncInterleave_frame h
  case emit => exact emitByte_frame h
  case txflush st =>
    cases st with
    | start =>
      simp only [exec, execTxflush] at h
      split at h
      · cases h
        exact OutputFrame.refl _
      · cases h
        exact OutputFrame.pushA _ _ (by simp [isOutputWork, opOfA, isControl, sendCall])
    | done =>
      cases h
      exact ⟨rfl, [], rfl, by simp⟩
  case thresholdFlush =>
    simp only [exec, execThresholdFlush] at h
    split at h
    · cases h
      exact OutputFrame.pushA _ _ (by simp [isOutputWork, opOfA, isControl])
    · cases h
      exact OutputFrame.refl _
  case send who st data counted =>
    cases who with
    | b => exact absurd hi (by simp [isOutputWork, opOfA])
    | a =>
      cases st with
      | entry =>
        simp only [exec, execSend] at h
        split at h
        · split at h
          · cases h
            exact OutputFrame.refl _
          · cases h
            exact OutputFrame.pushA _ _ (by simp [isOutputWork, opOfA, isControl])
        · cases h
          exact OutputFrame.refl _
      | loop =>
        simp only [exec, execSend] at h
        split at h
        · cases h
          exact OutputFrame.refl _
        · cases h
          exact sendIteration_frame _ _ _
  case wake st =>
    cases st with
    | wait => exact absurd hi (by decide)
    | signal =>
      cases h
      exact ⟨rfl, [], rfl, by simp⟩
  all_goals exact absurd hi (by simp [isOutputWork, opOfA, isControl])

/-! ## Control operations -/

/-- The encoder that CHECK_HALF calls is an output operation (42_dma_capture.md rule R210). -/
theorem encoderOf_work (v : Variant) (h : Half) : ∀ x ∈ encoderOf v h, isOutputWork x = true := by
  intro x hx
  cases v <;> simp only [encoderOf, List.mem_singleton, List.not_mem_nil] at hx <;> subst hx <;> rfl

/-- Step 3a writes channel registers only (42_dma_capture.md rule R208). -/
theorem detachHalf_same (s : State) (h : Half) :
    detachHalf s h = { s with dma := (detachHalf s h).dma } := by
  unfold detachHalf setChainTo
  split <;> split <;> rfl

/-- Step 5 writes channel registers only (42_dma_capture.md rule R215). -/
theorem rechainHalf_same (s : State) (h : Half) :
    rechainHalf s h = { s with dma := (rechainHalf s h).dma } := by
  unfold rechainHalf setChainTo
  split <;> split <;> rfl

/-- Step 3b is a write of the two write addresses, each for an enabled kind
(42_dma_capture.md rule R209). -/
theorem restoreHalf_ok {s t : State} {h : Half} :
    restoreHalf s h = .ok t ↔
      ∃ s1, (if digEn s then setWriteAddr s (digChan h) (s.session.digOff h) else .ok s) = .ok s1 ∧
        (if anaEn s then setWriteAddr s1 (anaChan h) (s.session.anaOff h) else .ok s1) = .ok t := by
  unfold restoreHalf
  dsimp only
  generalize (if digEn s then setWriteAddr s (digChan h) (s.session.digOff h) else Except.ok s) = r
  cases r <;> simp

/-- Step 3b writes channel registers only (42_dma_capture.md rule R209). -/
theorem restoreHalf_same {s t : State} {h : Half} (he : restoreHalf s h = .ok t) :
    t = { s with dma := t.dma } := by
  have write : ∀ {u v : State} {c a}, setWriteAddr u c a = .ok v → v = { u with dma := v.dma } := by
    intro u v c a hw
    obtain ⟨-, rfl⟩ := setWriteAddr_ok.1 hw
    rfl
  obtain ⟨s1, h1, h2⟩ := restoreHalf_ok.1 he
  have e1 : s1 = { s with dma := s1.dma } := by
    split at h1
    · exact write h1
    · cases h1
      rfl
  split at h2
  · have e2 := write h2
    rw [e1] at e2
    exact e2
  · cases h2
    exact e1

/-! ## SEQ_B -/

/-- What a command line, a parser step or an abort may change: registers of the Session that SEQ_B owns
(10_state.md rule R32), `sending` and `aborted` only towards false, and SEQ_B's own work list. -/
structure CommandFrame (s t : State) : Prop where
  same : t = { s with session := t.session, seqB.todo := t.seqB.todo }
  started : t.session.started = s.session.started
  ack : t.session.armAckSeq = s.session.armAckSeq
  samples : t.session.samplesSentCount = s.session.samplesSentCount
  bytes : t.session.bytesSentCount = s.session.bytesSentCount
  sending : t.session.sending = s.session.sending ∨ t.session.sending = false
  aborted : t.session.aborted = s.session.aborted ∨ t.session.aborted = false
  work : ∃ ops, t.seqB.todo = ops ++ s.seqB.todo ∧ ∀ x ∈ ops, opOfB x = true

theorem CommandFrame.refl (s : State) : CommandFrame s s :=
  ⟨rfl, rfl, rfl, rfl, rfl, .inl rfl, .inl rfl, [], rfl, by simp⟩

theorem CommandFrame.trans {s t u : State} (h1 : CommandFrame s t) (h2 : CommandFrame t u) :
    CommandFrame s u := by
  obtain ⟨o1, e1, w1⟩ := h1.work
  obtain ⟨o2, e2, w2⟩ := h2.work
  refine ⟨?_, h2.started.trans h1.started, h2.ack.trans h1.ack, h2.samples.trans h1.samples,
    h2.bytes.trans h1.bytes, ?_, ?_, o2 ++ o1, by rw [e2, e1, List.append_assoc], ?_⟩
  · have e := h2.same
    rw [h1.same] at e
    exact e
  · obtain h | h := h2.sending
    · rw [h]
      exact h1.sending
    · exact .inr h
  · obtain h | h := h2.aborted
    · rw [h]
      exact h1.aborted
    · exact .inr h
  · intro x hx
    obtain hx | hx := List.mem_append.1 hx
    · exact w2 x hx
    · exact w1 x hx

theorem setRsp_frame (s : State) (r : List Byte) : CommandFrame s (setRsp s r) :=
  ⟨rfl, rfl, rfl, rfl, rfl, .inl rfl, .inl rfl, [], rfl, by simp⟩

theorem clearCmd_frame (s : State) : CommandFrame s (clearCmd s) :=
  ⟨rfl, rfl, rfl, rfl, rfl, .inl rfl, .inl rfl, [], rfl, by simp⟩

theorem startCapture_frame {s t : State} {cont : Bool} (h : startCapture s cont = .next t) :
    CommandFrame s t := by
  obtain ⟨-, rfl⟩ := startCapture_next h
  obtain ⟨-, h2, h3, h4, h5, -, h7, h8, -⟩ :=
    planSession_keeps s.params { s.session with continuous := cont }
  exact ⟨rfl, h3, h2, h7, h8, .inl h4, .inl h5, [], rfl, by simp⟩

theorem runLineCommand_frame {i : Instr} {s t : State} (h : runLineCommand i s = .next t) :
    CommandFrame s t := by
  have same : ∀ {u : State}, (.next s : Out) = .next u → CommandFrame s u := by
    intro u hu
    cases hu
    exact CommandFrame.refl s
  cases i <;> simp only [runLineCommand] at h
  case ident => cases h; exact setRsp_frame _ _
  case ascale => cases h; exact setRsp_frame _ _
  case reject => cases h; exact setRsp_frame _ _
  case fixed => exact startCapture_frame h
  case cont => exact startCapture_frame h
  case rate =>
    unfold execRate at h
    split at h
    · split at h <;> cases h
      · exact ⟨rfl, rfl, rfl, rfl, rfl, .inl rfl, .inl rfl, [], rfl, by simp⟩
      · exact CommandFrame.refl s
    · exact same h
  case limit =>
    unfold execLimit at h
    split at h
    · split at h <;> cases h
      · exact ⟨rfl, rfl, rfl, rfl, rfl, .inl rfl, .inl rfl, [], rfl, by simp⟩
      · exact setRsp_frame _ _
    · cases h
      exact setRsp_frame _ _
  case aen =>
    unfold execAen at h
    split at h
    · split at h <;> cases h
      · exact ⟨rfl, rfl, rfl, rfl, rfl, .inl rfl, .inl rfl, [], rfl, by simp⟩
      · exact setRsp_frame _ _
    · cases h
      exact setRsp_frame _ _
  case den =>
    unfold execDen at h
    split at h
    · split at h <;> cases h
      · exact ⟨rfl, rfl, rfl, rfl, rfl, .inl rfl, .inl rfl, [], rfl, by simp⟩
      · exact setRsp_frame _ _
    · cases h
      exact setRsp_frame _ _
  all_goals exact same h

theorem responseOp_work (p : Params) (rsp : List Byte) : opOfB (responseOp p rsp) = true := by
  unfold responseOp
  split
  · rfl
  · split <;> rfl

theorem respond_frame (s : State) : CommandFrame s (respond s) := by
  obtain ⟨-, h⟩ | ⟨-, h⟩ := respond_cases s <;> rw [h]
  · exact CommandFrame.refl s
  · refine ⟨rfl, rfl, rfl, rfl, rfl, .inl rfl, .inl rfl, _, rfl, fun x hx => ?_⟩
    simp only [List.mem_cons, List.not_mem_nil, or_false] at hx
    obtain rfl | rfl := hx
    · exact responseOp_work _ _
    · rfl

theorem dispatchLine_frame {line : List Byte} {s t : State} (h : dispatchLine line s = .next t) :
    CommandFrame s t := by
  cases line with
  | nil =>
    cases h
    exact CommandFrame.refl s
  | cons op args =>
    obtain ⟨u, hu, ht⟩ := andThen_eq_next.1 h
    cases ht
    exact ((setRsp_frame s _).trans (runLineCommand_frame hu)).trans (respond_frame u)

theorem execParserStep_frame {c : Byte} {s t : State} (h : execParserStep c s = .next t) :
    CommandFrame s t := by
  unfold execParserStep at h
  split at h
  · split at h
    · cases h
      exact CommandFrame.refl s
    · obtain ⟨u, hu, ht⟩ := andThen_eq_next.1 h
      cases ht
      exact (dispatchLine_frame hu).trans (clearCmd_frame u)
  · split at h <;> cases h
    · exact clearCmd_frame s
    · exact ⟨rfl, rfl, rfl, rfl, rfl, .inl rfl, .inl rfl, [], rfl, by simp⟩

/-- Everything the routing of a character other than RESET_CHAR can change (47_scheduler.md rule R317);
while a capture is active, `sending` and `aborted` only. -/
theorem execRoute_frame {c : Byte} {s t : State} (hc : c ≠ Config.resetChar)
    (h : execRoute c s = .next t) :
    CommandFrame s t ∧ (captureActive s = true →
      t = { s with
        session.sending := t.session.sending, session.aborted := t.session.aborted }) := by
  unfold execRoute at h
  rw [if_neg hc] at h
  split at h
  · split at h <;> cases h
    · exact ⟨⟨rfl, rfl, rfl, rfl, rfl, .inr rfl, .inr rfl, [], rfl, by simp⟩, fun _ => rfl⟩
    · exact ⟨CommandFrame.refl s, fun _ => rfl⟩
  · rename_i ha
    exact ⟨execParserStep_frame h, fun h' => absurd h' ha⟩

/-- Everything an operation on SEQ_B's work list can change: the response, the wire, the time of the last
write and the wake event, and SEQ_B's own work list (40_commands.md rule R135; 47_scheduler.md rule
R320). -/
theorem opOfB_frame {i : Instr} {s t : State} (hi : opOfB i = true) (h : exec i s = .next t) :
    t = { s with
      session.rsp := t.session.rsp, seqB.todo := t.seqB.todo, wakeEvt := t.wakeEvt
      port.wire := t.port.wire, tx.lastWriteUs := t.tx.lastWriteUs } ∧
    ∃ ops, t.seqB.todo = ops ++ s.seqB.todo ∧ ∀ x ∈ ops, opOfB x = true := by
  have none : ∀ x ∈ ([] : List Instr), opOfB x = true := by simp
  cases i <;> try (exact absurd hi Bool.false_ne_true)
  case outAck =>
    cases h
    exact ⟨rfl, _, rfl, by simp [opOfB, sendCall]⟩
  case outIdent =>
    cases h
    exact ⟨rfl, _, rfl, by simp [opOfB, sendCall]⟩
  case dispatch st =>
    cases st with
    | line => exact absurd hi Bool.false_ne_true
    | clear =>
      cases h
      exact ⟨rfl, [], rfl, none⟩
  case wake st =>
    cases st with
    | signal => exact absurd hi Bool.false_ne_true
    | wait =>
      simp only [exec, execWake] at h
      split at h <;> cases h
      · exact ⟨rfl, [], rfl, none⟩
      · exact ⟨rfl, [_], rfl, by simp [opOfB]⟩
  case send who st data counted =>
    cases who with
    | a => exact absurd hi Bool.false_ne_true
    | b =>
      cases counted with
      | true => exact absurd hi Bool.false_ne_true
      | false =>
        have one : ∀ d, ∀ x ∈ [Instr.send .b .loop d false], opOfB x = true := by simp [opOfB]
        cases st with
        | entry =>
          simp only [exec, execSend] at h
          split at h
          · split at h <;> cases h
            · exact ⟨rfl, [], rfl, none⟩
            · exact ⟨rfl, [_], rfl, one _⟩
          · cases h
            exact ⟨rfl, [], rfl, none⟩
        | loop =>
          simp only [exec, execSend] at h
          split at h
          · cases h
            exact ⟨rfl, [], rfl, none⟩
          · cases h
            obtain ⟨k, -, -, -, ⟨-, h⟩ | ⟨-, h⟩⟩ | ⟨-, -, h⟩ | ⟨-, -, -, h⟩ :=
              sendIteration_cases s .b data false <;> rw [h]
            · exact ⟨rfl, [], rfl, none⟩
            · exact ⟨rfl, [_], rfl, one _⟩
            · exact ⟨rfl, [], rfl, none⟩
            · exact ⟨rfl, [_], rfl, one _⟩

/-! ## Inputs -/

/-- Taking the environment's inputs changes the model's own fields and the time only. -/
theorem takeInputs_same (s : State) :
    takeInputs s = { s with
      env := (takeInputs s).env, script := (takeInputs s).script
      envCount := (takeInputs s).envCount, nowUs := (takeInputs s).nowUs } := by
  unfold takeInputs
  split <;> rfl

/-- A next state of the machine is one of the action of the agent that moves. -/
theorem step_next {s t : State} :
    step s = .next t ↔
      s.params.arenaOk = true ∧ runAction (nextAction (takeInputs s)) = .next t := by
  unfold step
  cases h : s.params.arenaOk <;> simp

end Sys2Proof.Machine
end

