-- ==== Sys2Proof/Tests/Slice0.lean ====
section
/-! SUPPORT. Tests/Slice0.lean: an ill-formed term for each check of WellFormed and Params.wf; words written
out from the encodings of spec/30_encoding.md; one-step tests with the values of
spec/95_test_vectors.md; for each obligation that has hypotheses, states and operands that meet them. -/

namespace Sys2Proof.Tests

open Sys2Proof.Machine

/-! ## Helpers -/

/-- Whether an operation goes on, to a state of which `f` holds. -/
def nextIs (o : Out) (f : State → Bool) : Bool :=
  match o with
  | .next t => f t
  | .fault _ => false
  | .refused _ => false

/-- Whether an operation stops in the fault `e`. -/
def faultIs (o : Out) (e : Fault) : Bool :=
  match o with
  | .next _ => false
  | .fault e' => decide (e' = e)
  | .refused _ => false

/-- Whether an operation is refused. -/
def isRefused (o : Out) : Bool :=
  match o with
  | .next _ => false
  | .fault _ => false
  | .refused _ => true

theorem exists_of_nextIs {o : Out} {f : State → Bool} (h : nextIs o f = true) :
    ∃ t, o = .next t ∧ f t = true := by
  cases o with
  | next t => exact ⟨t, rfl, h⟩
  | fault => cases h
  | refused => cases h

/-- The parameters of 95_test_vectors.md. -/
abbrev stdParams : Params := Config.defaultParams

/-- A state in which agent `a` moves next, over an ideal transport. -/
def turn (a : Agent) (s : State) : State := { s with script := [inputsFor a] }

/-- The characters of a line already received. -/
def holding (chars : List Byte) (s : State) : State :=
  { s with session.cmdBuf := ⟨chars, List.replicate (20 - chars.length) 0⟩ }

/-- A digital capture of four channels in the middle of half 0, of eight samples a half. -/
def mid : State :=
  { State.reset with
    session := { State.reset.session with
      digitalMask := 0xF, digitalCount := 4, dnps := .n1, txBytesPerSample := 1, numSamples := 64
      digHalf1Off := 4, anaHalf0Off := 8, anaHalf1Off := 8, digHalfSize := 4, samplesPerHalf := 8
      variant := .nibble, started := true, sending := true }
    ctrlState := .capturing
    dma := { State.reset.dma with
      d0 := ⟨true, 0, .d1, 1, 1, .word⟩
      d1 := ⟨false, 4, .d1, 0, 1, .word⟩ }
    sampler := ⟨true, false, [0x76543210]⟩
    arena := [(0, 0x10), (1, 0x32), (2, 0x54), (3, 0x76)]
    env := inputsFor .seqA }

/-- The same with half 0 complete and half 1 being filled. -/
def ready : State :=
  { mid with dma := { mid.dma with
      d0 := ⟨false, 4, .d1, 0, 1, .word⟩
      d1 := ⟨true, 4, .d1, 1, 1, .word⟩ } }

/-- Both kinds enabled, one analog channel. -/
def both : State :=
  { ready with
    session := { ready.session with
      analogMask := 1, analogCount := 1, variant := .interleave, anaHalfSize := 8
      anaHalf1Off := 16 }
    dma := { ready.dma with
      a0 := ⟨false, 16, .a1, 0, 8, .byte⟩
      a1 := ⟨true, 16, .a1, 8, 8, .byte⟩ }
    adc := ⟨true, false, [0x40]⟩
    arena := [(0, 0x10), (1, 0x32), (2, 0x54), (3, 0x76), (8, 0xFF), (9, 0x10)] }

/-- Idle channels, one analog and four digital channels planned, nothing armed. -/
def planned : State :=
  { both with
    session := { both.session with started := false, sending := false, armReqSeq := 1 }
    ctrlState := .idle
    dma := DmaBank.reset
    sampler := ⟨false, true, []⟩
    adc := ⟨false, true, []⟩ }

/-! ## WellFormed: an ill-formed term for each check -/

theorem test_wf_args_too_long :
    (Instr.rate (List.replicate 20 0x30)).wf stdParams = false ∧
      (Instr.rate (List.replicate 19 0x30)).wf stdParams = true := by decide
theorem test_wf_args_cr : (Instr.ident [0x0D]).wf stdParams = false := by decide
theorem test_wf_args_lf : (Instr.limit [0x0A]).wf stdParams = false := by decide
theorem test_wf_args_reset_char : (Instr.ascale [0x31, 0x2A]).wf stdParams = false := by decide
theorem test_wf_every_line_checks_args :
    [Instr.ident [0x0D], .rate [0x0D], .limit [0x0D], .ascale [0x0D], .fixed [0x0D], .cont [0x0D],
      .aen [0x0D], .den [0x0D], .trig [0x0D], .pretrig [0x0D], .reject 0x78 [0x0D]].all
        (fun i => !i.wf stdParams) = true := by decide
theorem test_wf_reject_opcode_letter : (Instr.reject 0x69 []).wf stdParams = false := by decide
theorem test_wf_reject_terminator : (Instr.reject 0x0D []).wf stdParams = false := by decide
theorem test_wf_nrun : (Instr.outNrun 47).wf stdParams = false := by decide
theorem test_wf_brun_direct_low : (Instr.outBrunDirect 47).wf stdParams = false := by decide
theorem test_wf_brun_direct_high : (Instr.outBrunDirect 80).wf stdParams = false := by decide
theorem test_wf_brun_step : (Instr.outBrunStep 79).wf stdParams = false := by decide
theorem test_wf_parser_step : (Instr.parserStep 0x2A).wf stdParams = false := by decide
theorem test_wf_dispatch : (Instr.dispatch (.line [])).wf stdParams = false := by decide
theorem test_wf_emit : (Instr.emit 0x2F).wf stdParams = false := by decide

theorem test_params_default : stdParams.wf = true := by decide
theorem test_params_arena :
    { stdParams with arenaCapacity := 55 }.wf = false ∧
      { stdParams with arenaCapacity := 56 }.wf = true ∧
      { stdParams with arenaCapacity := 2 ^ 32 }.wf = false ∧
      { stdParams with chunkMult := 0 }.wf = false := by decide
theorem test_params_transmit :
    { stdParams with txbufCapacity := 15, txFlushThresh := 1 }.wf = false ∧
      { stdParams with txFlushThresh := 0 }.wf = false ∧
      { stdParams with txFlushThresh := 65 }.wf = false := by decide
theorem test_params_buffers :
    { stdParams with cmdbufCapacity := 10 }.wf = false ∧
      { stdParams with rspCapacity := 16 }.wf = false ∧
      { stdParams with analogScaleStr := List.replicate 33 0x30 }.wf = false := by decide
theorem test_params_characters :
    { stdParams with abortChar := 0x2A }.wf = false ∧
      { stdParams with abortChar := 0x0D }.wf = false ∧
      { stdParams with abortChar := 0x0A }.wf = false ∧
      { stdParams with protocolVersion := [0x0D] }.wf = false ∧
      { stdParams with analogScaleStr := [0x31, 0x78, 0x0A] }.wf = false ∧
      { stdParams with protocolVersion := [0x80] }.wf = false ∧
      { stdParams with analogScaleStr := [0x31, 0x78, 0x80] }.wf = false := by decide
theorem test_params_scale_form :
    { stdParams with analogScaleStr := [0x31, 0x78, 0x30] }.wf = true ∧
      { stdParams with analogScaleStr := [] }.wf = false ∧
      { stdParams with analogScaleStr := [0x2A] }.wf = false ∧
      { stdParams with analogScaleStr := [0x78, 0x30] }.wf = false ∧
      { stdParams with analogScaleStr := [0x31, 0x78] }.wf = false := by decide
theorem test_params_counts :
    { stdParams with abortMarkerPeriodUs := 0 }.wf = false ∧
      { stdParams with wakePeriod := 0 }.wf = false ∧
      { stdParams with samplerFifoDepth := 0 }.wf = false ∧
      { stdParams with adcFifoDepth := 0 }.wf = false := by decide

/-! ## Words written out from the encodings (30_encoding.md rules R90 to R108) -/

theorem test_decode_reset : decodeCommand stdParams [0x2A, 0x30] = .ok (.reset, [0x30]) := by decide
/-- V-C1. -/
theorem test_decode_ident : decodeCommand stdParams [0x69, 0x0D] = .ok (.ident [], []) := by decide
/-- V-C2. -/
theorem test_decode_rate :
    decodeCommand stdParams [0x52, 0x35, 0x30, 0x30, 0x30, 0x0D]
      = .ok (.rate [0x35, 0x30, 0x30, 0x30], []) := by decide
/-- V-C22: a lone LF terminates. -/
theorem test_decode_limit :
    decodeCommand stdParams [0x4C, 0x36, 0x34, 0x0A] = .ok (.limit [0x36, 0x34], []) := by decide
theorem test_decode_ascale :
    decodeCommand stdParams [0x61, 0x30, 0x0D] = .ok (.ascale [0x30], []) := by decide
theorem test_decode_fixed : decodeCommand stdParams [0x46, 0x0D] = .ok (.fixed [], []) := by decide
theorem test_decode_cont : decodeCommand stdParams [0x43, 0x0D] = .ok (.cont [], []) := by decide
/-- V-C11. -/
theorem test_decode_aen :
    decodeCommand stdParams [0x41, 0x31, 0x30, 0x0D] = .ok (.aen [0x31, 0x30], []) := by decide
/-- V-C14. -/
theorem test_decode_den :
    decodeCommand stdParams [0x44, 0x31, 0x32, 0x30, 0x0D]
      = .ok (.den [0x31, 0x32, 0x30], []) := by decide
theorem test_decode_trig :
    decodeCommand stdParams [0x74, 0x31, 0x0D] = .ok (.trig [0x31], []) := by decide
theorem test_decode_pretrig : decodeCommand stdParams [0x70, 0x0D] = .ok (.pretrig [], []) := by decide
/-- V-C19: case matters. -/
theorem test_decode_reject :
    decodeCommand stdParams [0x72, 0x35, 0x0D] = .ok (.reject 0x72 [0x35], []) := by decide
theorem test_decode_abort : decodeControl stdParams [0x2B] = .ok (.abort, []) := by decide
/-- V-C20. -/
theorem test_decode_empty_line :
    decodeCommand stdParams [0x0A, 0x0D] = .ok (.emptyLine, [0x0D]) := by decide
/-- V-C24: 21 characters before the terminator. -/
theorem test_decode_line_too_long :
    decodeCommand stdParams (0x52 :: List.replicate 20 0x31 ++ [0x0D]) = .error .lineTooLong := by decide

/-- V-N14: B9 is value 9 after a run of 3. -/
theorem test_decode_tagged :
    decodeOut stdParams .nibble [0xB9] = .ok (.outTagged 3 9, []) := by decide
/-- R101: 127 stands for 640. -/
theorem test_decode_nrun : decodeOut stdParams .nibble [0x7F] = .ok (.outNrun 127, []) := by decide
theorem test_decode_group : decodeOut stdParams .byteRle [0xD5] = .ok (.outGroup 0x55, []) := by decide
/-- R103: 79 is the last direct code, 80 the first stepped one. -/
theorem test_decode_brun_direct :
    decodeOut stdParams .byteRle [0x4F] = .ok (.outBrunDirect 79, []) := by decide
theorem test_decode_brun_step :
    decodeOut stdParams .byteRle [0x50] = .ok (.outBrunStep 80, []) := by decide
/-- V-I1: BF is the conversion 7F or 7E. -/
theorem test_decode_analog :
    decodeOut stdParams .analogPlace [0xBF] = .ok (.outAnalog 0x3F, []) := by decide
theorem test_decode_marker :
    decodeOut stdParams .byteRle [0x21, 0x21, 0x21] = .ok (.outMarker, []) := by decide
/-- V-T5. -/
theorem test_decode_record :
    decodeOut stdParams .nibble [0x24, 0x31, 0x32, 0x33, 0x34, 0x35, 0x36, 0x37, 0x2B]
      = .ok (.outRecord 1234567, []) := by decide
theorem test_decode_ack : decodeOut stdParams .noCapture [0x2A] = .ok (.outAck, []) := by decide
/-- V-C1, the wire. -/
theorem test_decode_identity :
    decodeOut stdParams .noCapture [0x53, 0x52, 0x50, 0x49, 0x43, 0x4F, 0x2C, 0x41, 0x30, 0x33, 0x31,
      0x44, 0x32, 0x31, 0x2C, 0x30, 0x32] = .ok (.outIdent, []) := by decide
/-- R109: a byte below 0x30 that begins no record. -/
theorem test_decode_reserved :
    decodeOut stdParams .nibble [0x2F] = .error (.reserved 0x2F) := by decide

/-- R99: `,` and `.` are response text when no capture is active. -/
theorem test_decode_response_text :
    decodeOut stdParams .noCapture [0x2E, 0x35, 0x78, 0x30] = .error .otherResponse ∧
      decodeOut stdParams .noCapture [0x2C] = .error .otherResponse ∧
      decodeOut stdParams .noCapture [0x21] = .error (.reserved 0x21) := by decide
/-- U4: the record after the slices of V-I3 stops the reference decoder. -/
theorem test_decode_interleave_stops :
    decodeInterleave [0xA5, 0x81, 0xFF, 0x80, 0x24, 0x34, 0x2B, 0x30] 2 2 = [(0xA5, [0xFE, 0])] := by decide

/-- U4: a byte below 0x30 stops the reference decoder, between two samples and inside one. -/
theorem test_decode_byte_stops :
    decodeByte [0x81, 0x80, 0x24, 0x34, 0x2B] 2 = some [1] ∧
      decodeByte [0x81, 0x80, 0x81, 0x24] 2 = some [1] ∧ decodeByte [0x81, 0x24] 2 = some [] := by decide

/-- The first byte of a table word is its least significant one. -/
theorem test_word_den : decodeTableWord 24 0x303144 = some (.den [0x31, 0x30]) := by decide
theorem test_word_marker : decodeTableWord 24 0x212121 = some .outMarker := by decide

/-- A placed word is run by the next step (V-C11 with D in the place of A). -/
theorem test_fetch_den :
    nextIs (step (State.reset.withFetchWord 24 0x303144)) (fun t => t.session.digitalMask == 1)
      = true := by decide
theorem test_fetch_tagged :
    nextIs (step (State.reset.withFetchWord 8 0xB9)) (fun t => t.tx.buf.live == [0xB9]) = true := by
  decide

/-! ## One step each: host commands -/

/-- V-C25. -/
theorem test_reset :
    nextIs (exec .reset { State.reset with session.digitalMask := 0xF })
      (fun t => t.session.digitalMask == 0 && t.session.sampleRate == 5000) = true := by decide
/-- V-C1. -/
theorem test_ident :
    nextIs (exec (.ident []) State.reset) (fun t => t.session.rsp ==
      [0x53, 0x52, 0x50, 0x49, 0x43, 0x4F, 0x2C, 0x41, 0x30, 0x33, 0x31, 0x44, 0x32, 0x31, 0x2C, 0x30,
        0x32]) = true := by decide
/-- V-C5. -/
theorem test_rate_max :
    nextIs (exec (.rate [0x31, 0x32, 0x30, 0x30, 0x30, 0x30, 0x30, 0x31, 0x36]) State.reset)
      (fun t => t.session.sampleRate == 120000016) = true := by decide
/-- V-C4. -/
theorem test_rate_above :
    nextIs (exec (.rate [0x31, 0x32, 0x30, 0x30, 0x30, 0x30, 0x30, 0x31, 0x37]) State.reset)
      (fun t => t.session.sampleRate == 5000) = true := by decide
/-- V-C9. -/
theorem test_limit_max :
    nextIs (exec (.limit [0x34, 0x32, 0x39, 0x34, 0x39, 0x36, 0x37, 0x32, 0x39, 0x35]) State.reset)
      (fun t => t.session.numSamples == 4294967295) = true := by decide
/-- V-C7. -/
theorem test_limit_above :
    nextIs (exec (.limit [0x34, 0x32, 0x39, 0x34, 0x39, 0x36, 0x37, 0x32, 0x39, 0x36])
      (setRsp State.reset [0x2A]))
      (fun t => t.session.numSamples == 10 && t.session.rsp == []) = true := by decide
/-- V-C10. -/
theorem test_ascale :
    nextIs (exec (.ascale [0x7A]) State.reset)
      (fun t => t.session.rsp == [0x30, 0x2E, 0x30, 0x32, 0x35, 0x37, 0x78, 0x30]) = true := by decide
/-- V-C26. -/
theorem test_fixed :
    nextIs (exec (.fixed []) State.reset) (fun t => t.session.numSamples == 16
      && t.session.armReqSeq == 1 && t.session.rsp == [] && !t.session.continuous) = true := by decide
theorem test_cont :
    nextIs (exec (.cont []) State.reset)
      (fun t => t.session.continuous && t.session.armReqSeq == 1) = true := by decide
/-- V-C12, the second line. -/
theorem test_aen_clear :
    nextIs (exec (.aen [0x30, 0x32]) { State.reset with session.analogMask := 4 })
      (fun t => t.session.analogMask == 0) = true := by decide
/-- V-C13. -/
theorem test_aen_absent :
    nextIs (exec (.aen [0x31, 0x33]) (setRsp State.reset [0x2A]))
      (fun t => t.session.analogMask == 0 && t.session.rsp == []) = true := by decide
/-- V-C17. -/
theorem test_den_two_digits :
    nextIs (exec (.den [0x31, 0x30, 0x35]) State.reset)
      (fun t => t.session.digitalMask == 0x20) = true := by decide
/-- V-C15. -/
theorem test_den_absent :
    nextIs (exec (.den [0x31, 0x32, 0x31]) (setRsp State.reset [0x2A]))
      (fun t => t.session.digitalMask == 0 && t.session.rsp == []) = true := by decide
/-- V-C18. -/
theorem test_trig :
    nextIs (exec (.dispatch (.line [0x74, 0x31])) State.reset)
      (fun t => t.seqB.todo == [.outAck, .dispatch .clear]) = true := by decide
theorem test_pretrig :
    nextIs (exec (.pretrig []) (setRsp State.reset [0x2A])) (fun t => t.session.rsp == [0x2A])
      = true := by decide
/-- V-C19. -/
theorem test_reject :
    nextIs (exec (.dispatch (.line [0x78])) State.reset)
      (fun t => t.session.rsp == [] && t.seqB.todo == []) = true := by decide
/-- P4: the abort after an overrun. -/
theorem test_abort :
    nextIs (exec .abort { mid with session.aborted := true })
      (fun t => !t.session.aborted && !t.session.sending && t.session.started) = true := by decide
theorem test_empty_line :
    nextIs (exec .emptyLine mid) (fun t => decide (t = mid)) = true := by decide

/-! ## One step each: output bytes -/

/-- V-N5: a run of 1, then 5. -/
theorem test_out_tagged :
    nextIs (exec (.outTagged 1 5) State.reset) (fun t => t.tx.buf.live == [0x95]) = true := by decide
theorem test_out_nrun :
    nextIs (exec (.outNrun 48) State.reset) (fun t => t.tx.buf.live == [0x30]) = true := by decide
theorem test_out_group :
    nextIs (exec (.outGroup 0x2A) State.reset) (fun t => t.tx.buf.live == [0xAA]) = true := by decide
theorem test_out_brun_direct :
    nextIs (exec (.outBrunDirect 79) State.reset) (fun t => t.tx.buf.live == [0x4F]) = true := by decide
theorem test_out_brun_step :
    nextIs (exec (.outBrunStep 80) State.reset) (fun t => t.tx.buf.live == [0x50]) = true := by decide
theorem test_out_analog :
    nextIs (exec (.outAnalog 0x7F) State.reset) (fun t => t.tx.buf.live == [0xFF]) = true := by decide
/-- V-T6. -/
theorem test_out_marker :
    nextIs (exec .outMarker State.reset)
      (fun t => t.seqA.todo == [.send .a .entry [0x21, 0x21, 0x21] false]) = true := by decide
/-- V-T5. -/
theorem test_out_record :
    nextIs (exec (.outRecord 10) State.reset)
      (fun t => t.seqA.todo == [.send .a .entry [0x24, 0x31, 0x30, 0x2B] false]) = true := by decide
theorem test_out_ack :
    nextIs (exec .outAck State.reset) (fun t => t.seqB.todo == [.send .b .entry [0x2A] false])
      = true := by decide
theorem test_out_ident :
    nextIs (exec .outIdent State.reset) (fun t => t.seqB.todo == [.send .b .entry
      [0x53, 0x52, 0x50, 0x49, 0x43, 0x4F, 0x2C, 0x41, 0x30, 0x33, 0x31, 0x44, 0x32, 0x31, 0x2C, 0x30,
        0x32] false]) = true := by decide

/-! ## One step each: internal operations -/

/-- V-C24: the 21st character empties the buffer and is dropped. -/
theorem test_parser_overflow :
    nextIs (exec (.parserStep 0x33) (holding (List.replicate 20 0x31) State.reset))
      (fun t => t.session.cmdBuf.live == []) = true := by decide
/-- V-C21. -/
theorem test_parser_line :
    nextIs (exec (.parserStep 0x0D) (holding [0x4C, 0x36, 0x34] State.reset))
      (fun t => t.session.numSamples == 64 && t.session.cmdBuf.live == []
        && t.seqB.todo == [.outAck, .dispatch .clear]) = true := by decide
/-- V-P7. -/
theorem test_plan_interleave :
    nextIs (exec .plan { State.reset with session := { State.reset.session with
        analogMask := 1, digitalMask := 0xF, numSamples := 16 } })
      (fun t => t.session.variant == .interleave && t.session.digHalfSize == 4
        && t.session.anaHalfSize == 8 && t.session.samplesPerHalf == 8
        && t.session.anaHalf1Off == 16 && t.session.maskOverrunAsBenign) = true := by decide
/-- V-P16: the saturated count. -/
theorem test_plan_byte4 :
    nextIs (exec .plan { State.reset with session := { State.reset.session with
        digitalMask := 0x1FFFF, numSamples := 4294967295 } })
      (fun t => t.session.variant == .byte4 && t.session.numSamples == 4294967292
        && t.session.digHalfSize == 2048 && t.session.samplesPerHalf == 512
        && !t.session.maskOverrunAsBenign) = true := by decide
/-- P3: ARM_CONFIGURE. -/
theorem test_arm_configure :
    nextIs (exec (.arm .configure) planned)
      (fun t => t.chan .d0 == ⟨true, 0, .d1, 1, 1, .word⟩ && t.chan .a1 == ⟨false, 16, .a1, 0, 8, .byte⟩
        && t.ctrlState == .armed && !t.sampler.rxStall) = true := by decide
theorem test_arm_start :
    nextIs (exec (.arm .start) planned)
      (fun t => t.sampler.running && t.adc.running && t.ctrlState == .capturing) = true := by decide
/-- V-D2. -/
theorem test_dma_trigger_busy :
    nextIs (exec (.dmaTrigger .d0) mid) (fun t => decide (t = mid)) = true := by decide
theorem test_dma_trigger_idle :
    nextIs (exec (.dmaTrigger .d1) mid) (fun t => t.chan .d1 == ⟨true, 4, .d1, 1, 1, .word⟩)
      = true := by decide
/-- V-D1: the last transfer of a block starts the peer in the same step. -/
theorem test_dma_xfer_last :
    nextIs (exec (.dmaXfer .d0) mid)
      (fun t => t.chan .d0 == ⟨false, 4, .d1, 0, 1, .word⟩ && (t.chan .d1).busy && t.sampler.fifo == []
        && readByte t.arena 0 == 0x10 && readByte t.arena 3 == 0x76) = true := by decide
theorem test_dma_xfer_byte :
    nextIs (exec (.dmaXfer .a1) both)
      (fun t => readByte t.arena 16 == 0x40 && (t.chan .a1).count == 7) = true := by decide
/-- U1: bytes that nothing has written read as some value, and the read completes. -/
theorem test_read_unwritten :
    (match memRead State.reset 0 4 with | .ok _ => true | .error _ => false) = true := by decide
/-- V-D1: a channel chained to itself triggers nothing. -/
theorem test_dma_complete_self :
    nextIs (exec (.dmaComplete .d1) ready) (fun t => !(t.chan .d1).busy && !(t.chan .d0).busy)
      = true := by decide
/-- V-D4. -/
theorem test_check_not_ready :
    nextIs (exec (.checkHalf .poll .half0) mid) (fun t => decide (t = mid)) = true := by decide
/-- V-D7 d: the stall comes before the idle peer. -/
theorem test_check_overrun_cause :
    overrunCause { mid with sampler.rxStall := true } .half0 = some .samplerStall := by decide
/-- V-D7 b. -/
theorem test_overrun :
    nextIs (exec (.overrun .samplerStall) mid) (fun t => t.session.aborted && !t.session.sending
      && t.ctrlState == .aborted && t.seqA.todo == [.outMarker]) = true := by decide
/-- V-N1: the seed. -/
theorem test_enc_nibble_seed :
    nextIs (exec (.encNibble .start .half0) ready)
      (fun t => t.enc.seeded && t.enc.nibLast == 7 && t.seqA.todo.take 3 ==
        [.outTagged 0 0, .outTagged 0 1, .outTagged 0 2]) = true := by decide
/-- V-N14: a run of 3 samples of 3, then 9. -/
theorem test_enc_nibble_fine :
    outBytes (nibWord ⟨true, 0, 3, 0x33333333, 0⟩ 0x99999333).1 = [0xB9] := by decide
/-- V-B1: a run of 1, then 2A. -/
theorem test_enc_byte1 :
    outBytes (byteStep 2 ⟨true, 1, 0, 0, 0x55⟩ 0x2A).1 = [0x30, 0xAA, 0x80] := by decide
/-- V-B9. -/
theorem test_enc_byte2 :
    outBytes (byteStep 3 ⟨true, 1, 0, 0, 0x1234⟩ 0xFFFF).1 = [0x30, 0xFF, 0xFF, 0x83] := by decide
/-- V-B10. -/
theorem test_enc_byte4 :
    outBytes (byteStep 3 ⟨true, 0, 0, 0, 0x1FFFFF⟩ 0x100001).1 = [0x81, 0x80, 0xC0] := by decide
theorem test_enc_byte_widths :
    nextIs (exec (.encByte1 .start .half0) ready) (fun t => t.enc.valLast == 0x10) = true ∧
      nextIs (exec (.encByte2 .start .half0) ready) (fun t => t.enc.valLast == 0x3210) = true ∧
      nextIs (exec (.encByte4 .start .half0) ready) (fun t => t.enc.valLast == 0x76543210) = true := by
  decide
/-- R256, R261: 5000 samples. -/
theorem test_byte_run_5000 : outBytes (runOps 5000) = [0x7F, 0x7F, 0x7F, 0x57, 0x37] := by decide
/-- V-I3. -/
theorem test_enc_interleave : outBytes (sliceOut 2 (some 0xA5) [0xFF, 0x01]) = [0xA5, 0x81, 0xFF, 0x80] := by
  decide
/-- V-I1, the second slice: digital 1, analog 10. -/
theorem test_enc_interleave_slice :
    nextIs (exec (.encInterleave (.index 1) .half0) both)
      (fun t => t.seqA.todo == [.outGroup 1, .outAnalog 8, .thresholdFlush,
        .encInterleave (.index 2) .half0]) = true := by decide
/-- V-T1: a full buffer is flushed first. -/
theorem test_emit_full :
    nextIs (exec (.emit 0x85) { State.reset with
        params.txbufCapacity := 4, tx.buf := ⟨[0x81, 0x82, 0x83, 0x84], []⟩ })
      (fun t => t.tx.buf.live.length == 4 && t.seqA.todo == [.txflush .start, .emit 0x85])
      = true := by decide
theorem test_txflush :
    nextIs (exec (.txflush .start) { State.reset with tx.buf := ⟨[0x81], []⟩ })
      (fun t => t.seqA.todo == [.send .a .entry [0x81] true, .txflush .done]) = true := by decide
theorem test_threshold_flush_at :
    nextIs (exec .thresholdFlush { State.reset with tx.buf := ⟨List.replicate 32 0x81, []⟩ })
      (fun t => t.seqA.todo == [.txflush .start]) = true := by decide
theorem test_threshold_flush_below :
    nextIs (exec .thresholdFlush { State.reset with tx.buf := ⟨List.replicate 31 0x81, []⟩ })
      (fun t => t.seqA.todo == []) = true := by decide
/-- V-T2: two of five bytes. -/
theorem test_send_partial :
    nextIs (exec (.send .a .loop [0x81, 0x82, 0x83, 0x84, 0x85] true) { State.reset with
        env := { inputsFor .seqA with writeAvailable := 2, availableAtCall := 2 } })
      (fun t => t.port.wire == [0x81, 0x82] && t.session.bytesSentCount == 2
        && t.seqA.todo == [.send .a .loop [0x83, 0x84, 0x85] true]) = true := by decide
/-- V-T4: the timeout, one microsecond past and not past. -/
theorem test_send_timeout :
    nextIs (exec (.send .a .loop [0x81] true) { State.reset with
        nowUs := 500001, env := { inputsFor .seqA with writeAvailable := 0 } })
      (fun t => t.seqA.todo == []) = true ∧
    nextIs (exec (.send .a .loop [0x81] true) { State.reset with
        nowUs := 500000, env := { inputsFor .seqA with writeAvailable := 0 } })
      (fun t => t.seqA.todo == [.send .a .loop [0x81] true]) = true := by decide
theorem test_stop :
    nextIs (exec .stop both) (fun t => !t.sampler.running && t.adc.fifo == [] && !(t.chan .d1).busy
      && (t.chan .d1).writeAddr == 4) = true := by decide
/-- P1: the record of ten bytes. -/
theorem test_wind_down_normal :
    nextIs (exec (.windDownNormal .record) { mid with session.bytesSentCount := 10 })
      (fun t => t.seqA.todo == [.outRecord 10, .windDownNormal .finish]) = true := by decide
/-- P4: the return after the abort character. -/
theorem test_wind_down_aborted :
    nextIs (exec (.windDownAborted .check) { mid with ctrlState := .aborted })
      (fun t => !t.session.started && t.ctrlState == .idle && t.seqA.todo == []) = true := by decide
/-- V-S6. -/
theorem test_wake_taken :
    nextIs (exec (.wake .wait) { State.reset with wakeEvt := true })
      (fun t => !t.wakeEvt && t.seqB.todo == []) = true := by decide
theorem test_wake_waits :
    nextIs (exec (.wake .wait) State.reset) (fun t => t.seqB.todo == [.wake .wait]) = true := by decide
/-- V-S1. -/
theorem test_route_discards :
    nextIs (exec (.route 0x4C) mid) (fun t => decide (t = mid)) = true := by decide
/-- V-S3: `+` is an ordinary character when no capture is active. -/
theorem test_route_plus :
    nextIs (exec (.route 0x2B) State.reset) (fun t => t.session.cmdBuf.live == [0x2B]) = true := by decide
/-- V-S4. -/
theorem test_soft_reset :
    nextIs (exec .softReset mid) (fun t => t.ctrlState == .idle && !(t.chan .d0).busy
      && !t.sampler.running && t.arena == mid.arena) = true := by decide

/-! ## Witnesses: what meets the hypotheses of each obligation

`test_witness_<obligation>` gives, for each clause that has hypotheses, a state and operands at a boundary
value that meet them together. -/

theorem test_witness_parse_dec :
    ([0] : List Nat) ≠ [] ∧ (∀ d ∈ ([9, 0] : List Nat), d < 10) ∧
      (∃ c ∈ ([0x39, 0x3A] : List Byte), c.toNat < 0x30 ∨ 0x39 < c.toNat) ∧
      (∃ c ∈ ([0x2F] : List Byte), c.toNat < 0x30 ∨ 0x39 < c.toNat) := by decide

theorem test_witness_enable_channel :
    (0x2F : Byte) ≠ 0x30 ∧ (0x2F : Byte) ≠ 0x31 ∧ 2 < [0x31, 0x32, (0x33 : Byte)].length ∧
      (∃ c ∈ ([0x3A] : List Byte), c.toNat < 0x30 ∨ 0x39 < c.toNat) ∧
      parseEnableChannel [0x31, 0x33, 0x31] = some (true, 31) ∧
      parseEnableChannel [0x31, 0x33, 0x32] = none := by decide

theorem test_witness_command_decodes :
    stdParams.wf = true ∧ (Instr.rate (List.replicate 19 0x31)).wf stdParams = true ∧
      isHostCommand (.rate (List.replicate 19 0x31)) = true ∧
      (Instr.reject 0x78 []).wf stdParams = true ∧ Instr.abort.wf stdParams = true := by decide

theorem test_witness_output_decodes :
    (Instr.outNrun 48).wf stdParams = true ∧ (Instr.outNrun 127).wf stdParams = true ∧
      (Instr.outBrunDirect 79).wf stdParams = true ∧ (Instr.outBrunStep 80).wf stdParams = true ∧
      OutCtx.nibble ∈ outContexts (.outNrun 48) ∧ OutCtx.byteRle ∈ outContexts (.outBrunStep 80) ∧
      OutCtx.groupPlace ∈ outContexts (.outGroup 0) ∧ OutCtx.analogPlace ∈ outContexts (.outRecord 0) ∧
      OutCtx.noCapture ∈ outContexts .outIdent := by decide

theorem test_witness_line_ends :
    stdParams.wf = true ∧ isLineChar 0x52 = true ∧ (List.replicate 19 (0x31 : Byte)).all isLineChar = true ∧
      (List.replicate 19 (0x31 : Byte)).length + 1 ≤ stdParams.cmdbufCapacity ∧
      stdParams.cmdbufCapacity < (List.replicate 20 (0x31 : Byte)).length + 1 := by decide

theorem test_witness_opcode_map :
    (0x72 : Byte) ∉ ([0x69, 0x52, 0x4C, 0x61, 0x46, 0x43, 0x41, 0x44, 0x74, 0x70] : List Byte) := by decide

theorem test_witness_reserved_bytes :
    0x80 ∈ outBytes (nibSeed Enc.reset 0).1 ∧ 0x30 ∈ outBytes (flushLong 8).1 ∧
      0x30 ∈ outBytes (runOps 1) ∧ 0xD5 ∈ outBytes (groupOps 1 0x55) ∧
      0x80 ∈ outBytes (sliceOut 0 none [0]) := by decide

theorem test_witness_response_only : (0x78 : Byte) ∉ opcodeLetters ∧ (0x74 : Byte) ∈ opcodeLetters := by
  decide

/-- V-C2 to V-C5: both ends of the range and one beyond each. -/
theorem test_witness_rate :
    parseDec [0x35, 0x30, 0x30, 0x30] = some 5000 ∧ parseDec [0x34, 0x39, 0x39, 0x39] = some 4999 ∧
      parseDec [0x31, 0x32, 0x30, 0x30, 0x30, 0x30, 0x30, 0x31, 0x36] = some 120000016 ∧
      parseDec [0x31, 0x32, 0x30, 0x30, 0x30, 0x30, 0x30, 0x31, 0x37] = some 120000017 ∧
      parseDec [] = none := by decide

/-- V-C7 to V-C9. -/
theorem test_witness_limit :
    parseDec [0x31] = some 1 ∧ parseDec [0x30] = some 0 ∧
      parseDec [0x34, 0x32, 0x39, 0x34, 0x39, 0x36, 0x37, 0x32, 0x39, 0x35] = some 4294967295 ∧
      parseDec [0x34, 0x32, 0x39, 0x34, 0x39, 0x36, 0x37, 0x32, 0x39, 0x36] = some 4294967296 ∧
      parseDec [0x2D, 0x35] = none := by decide

/-- V-C12 to V-C16. -/
theorem test_witness_mask :
    parseEnableChannel [0x31, 0x32] = some (true, 2) ∧ parseEnableChannel [0x30, 0x33] = some (false, 3) ∧
      parseEnableChannel [0x31, 0x32, 0x30] = some (true, 20) ∧
      parseEnableChannel [0x31, 0x32, 0x31] = some (true, 21) ∧ parseEnableChannel [] = none := by decide

theorem test_witness_start :
    State.reset.params.arenaOk = true ∧ { stdParams with arenaCapacity := 56 }.arenaOk = true ∧
      armPending State.reset = false := by decide

theorem test_witness_routing :
    captureActive mid = true ∧ captureActive planned = true ∧ captureActive State.reset = false ∧
      mid.params.abortChar ≠ 0x2A ∧ (0x4C : Byte) ≠ mid.params.abortChar := by decide

theorem test_witness_parser_cases :
    State.reset.session.cmdBuf.live = [] ∧ (holding [0x46] State.reset).session.cmdBuf.live ≠ [] ∧
      (holding (List.replicate 20 0x31) State.reset).session.cmdBuf.live.length
        = State.reset.params.cmdbufCapacity ∧
      (holding (List.replicate 19 0x31) State.reset).session.cmdBuf.live.length
        ≠ State.reset.params.cmdbufCapacity ∧ (0x0D : Byte) ≠ 0x2A ∧ (0x31 : Byte) ≠ 0x2A := by decide

theorem test_witness_accumulates :
    State.reset.session.cmdBuf.live = [] ∧
      (∀ c ∈ List.replicate 20 (0x31 : Byte), c ≠ 0x0D ∧ c ≠ 0x0A ∧ c ≠ 0x2A) ∧
      (List.replicate 20 (0x31 : Byte)).length ≤ State.reset.params.cmdbufCapacity := by decide

theorem test_witness_dispatch :
    (∃ t, exec (decodeLine 0x78 []) { State.reset with session.rsp := [0x2A] } = .next t ∧
      (t.session.rsp == []) = true) ∧
    (∃ t, exec (decodeLine 0x74 []) { State.reset with session.rsp := [0x2A] } = .next t ∧
      (t.session.rsp != []) = true) :=
  ⟨exists_of_nextIs (by decide), exists_of_nextIs (by decide)⟩

/-- PLAN answers, with nothing and with something enabled; the smallest arena. -/
theorem test_witness_plan :
    State.reset.params.arenaOk = true ∧ State.reset.params.arenaCapacity < 2 ^ 32 ∧
    (∃ t, exec .plan State.reset = .next t ∧
      decide (t.session.dnps = .n0 ∧ t.session.analogCount = 0) = true) ∧
    (∃ t, exec .plan { mid with params.arenaCapacity := 56 } = .next t ∧
      decide (t.session.dnps = .n1 ∧ t.session.samplesPerHalf = 32) = true) ∧
    (∃ t, exec .plan mid = .next t ∧ t.session.maskOverrunAsBenign = true) :=
  ⟨by decide, by decide, exists_of_nextIs (by decide), exists_of_nextIs (by decide),
    exists_of_nextIs (by decide)⟩

theorem test_witness_too_small :
    { stdParams with arenaCapacity := 55 }.arenaOk = false ∧
      { stdParams with chunkMult := 0 }.arenaOk = false := by decide

/-- Reads that end at the end of the arena. -/
theorem test_witness_arena :
    let s := { mid with params.arenaCapacity := 4 }
    3 + 1 ≤ s.params.arenaCapacity ∧ 2 + 2 ≤ s.params.arenaCapacity ∧ 2 ∣ 2 ∧
      0 + 4 ≤ s.params.arenaCapacity ∧ 4 ∣ 0 ∧ readByte s.arena 0 = 0x10 ∧
      readByte s.arena 3 = 0x76 ∧ mid.session.dnps = .n1 := by decide

theorem test_witness_arena_layout :
    (match memRead mid 0 4 with | .ok w => w == 0x76543210 | .error _ => false) = true ∧
    { mid with session.dnps := .n2 }.session.dnps = .n2 ∧
      { mid with session.dnps := .n4 }.session.dnps = .n4 ∧
      { mid with session.dnps := .n8 }.session.dnps = .n8 := by decide

theorem test_witness_model_faults :
    mid.params.arenaCapacity < 4093 + 4 ∧ 2 + 4 ≤ mid.params.arenaCapacity ∧ ¬ 4 ∣ 2 ∧
      (State.reset.chan .d0).busy = false ∧ (State.reset.chan .d0).reload = 0 ∧
      (mid.chan .d0).chainTo = .d1 ∧ ({ mid.dma.d1 with reload := 0 }).busy = false ∧
      digEn both = true ∧ (both.chan (digChan .half0)).busy = false ∧ anaEn both = true ∧
      (both.chan (anaChan .half1)).busy = true ∧ (ready.chan (digChan .half1)).busy = true ∧
      emittedByte (.emit 0x2F) = some 0x2F := by decide

/-- A transfer one byte beyond the arena, one misaligned, and an encoder's read beyond it. -/
theorem test_witness_access_faults :
    let late := { mid with dma.d0.writeAddr := 4093 }
    let odd := { mid with dma.d0.writeAddr := 2 }
    let short := { mid with params.arenaCapacity := 3 }
    (late.chan .d0).busy = true ∧ late.sampler.fifo ≠ [] ∧
      late.params.arenaCapacity < 4093 + (late.chan .d0).xfer.bytes ∧
      2 + (odd.chan .d0).xfer.bytes ≤ odd.params.arenaCapacity ∧ ¬ (odd.chan .d0).xfer.bytes ∣ 2 ∧
      short.enc.seeded = false ∧ 0 < short.session.samplesPerHalf.toNat / 8 ∧
      (match memRead short 0 4 with | .ok _ => false | .error e => decide (e = .arenaRange 0)) = true ∧
      (match memRead { both with params.arenaCapacity := 9 } 9 1 with
        | .ok _ => false | .error e => decide (e = .arenaRange 9)) = true := by decide

/-- ARM with each of the four channels busy in turn, and with each of the two sizes 0. -/
theorem test_witness_arm_faults :
    planned.session.variant ≠ .none ∧ digEn planned = true ∧ anaEn planned = true ∧
      faultIs (exec (.arm .configure) { planned with dma.d0.busy := true }) (.dmaConfigureBusy .d0)
        = true ∧
      faultIs (exec (.arm .configure) { planned with dma.d1.busy := true }) (.dmaConfigureBusy .d1)
        = true ∧
      faultIs (exec (.arm .configure) { planned with dma.a0.busy := true }) (.dmaConfigureBusy .a0)
        = true ∧
      faultIs (exec (.arm .configure) { planned with dma.a1.busy := true }) (.dmaConfigureBusy .a1)
        = true ∧
      faultIs (exec (.arm .configure) { planned with session.digHalfSize := 3 }) (.dmaReloadZero .d0)
        = true ∧
      faultIs (exec (.arm .configure) { planned with session.anaHalfSize := 0 }) (.dmaReloadZero .a0)
        = true := by decide

theorem test_witness_arm_nothing : State.reset.session.variant = .none := by decide

theorem test_witness_arm :
    planned.session.variant ≠ .none ∧ digEn planned = true ∧ anaEn planned = true ∧
      (planned.chan .d0).busy = false ∧ (planned.chan .d1).busy = false ∧
      planned.session.digHalfSize / 4 ≠ 0 ∧ (planned.chan .a0).busy = false ∧
      (planned.chan .a1).busy = false ∧ planned.session.anaHalfSize ≠ 0 := by decide

theorem test_witness_trigger :
    (mid.chan .d0).busy = true ∧ (mid.chan .d1).busy = false ∧ (mid.chan .d1).reload ≠ 0 ∧
      (mid.chan .d1).chainTo = .d1 ∧ (mid.chan .d0).chainTo = .d1 ∧ (ready.chan .d0).chainTo = .d1 ∧
      (ready.chan .d1).busy = true := by decide

/-- The last word and the last byte of the arena, and the last transfer of a block. -/
theorem test_witness_transfer :
    (mid.chan .d0).xfer = (if isDigital .d0 then .word else .byte) ∧
      isDigital .d0 = true ∧ (mid.chan .d0).busy = true ∧ mid.sampler.fifo = [0x76543210] ∧
      (mid.chan .d0).writeAddr.toNat + 4 ≤ { stdParams with arenaCapacity := 4 }.arenaCapacity ∧
      4 ∣ (mid.chan .d0).writeAddr.toNat ∧ (mid.chan .d0).count = 1 ∧
      (both.chan .a1).xfer = (if isDigital .a1 then .word else .byte) ∧ isDigital .a1 = false ∧
      (both.chan .a1).busy = true ∧ both.adc.fifo = [0x40] ∧
      (both.chan .a1).writeAddr.toNat + 1 ≤ { stdParams with arenaCapacity := 17 }.arenaCapacity ∧
      (both.chan .a1).count ≠ 1 := by decide

theorem test_witness_poll :
    (digEn mid = true ∧ (mid.chan (digChan .half0)).busy = true) ∧
      (anaEn both = true ∧ (both.chan (anaChan .half1)).busy = true) ∧
      halfBusy ready .half0 = false := by decide

theorem test_witness_restore :
    digEn both = true ∧ anaEn both = true ∧ (both.chan (digChan .half0)).busy = false ∧
      (both.chan (anaChan .half0)).busy = false := by decide

theorem test_witness_encode :
    mid.session.variant = .nibble ∧ both.session.variant = .interleave ∧
      mid.session.continuous = false ∧ mid.session.samplesSentCount < mid.session.numSamples.toNat ∧
      mid.session.numSamples.toNat ≤ { mid with session.samplesSentCount := 64 }.session.samplesSentCount ∧
      { mid with session.continuous := true }.session.continuous = true := by decide

theorem test_witness_overrun :
    mid.session.maskOverrunAsBenign = false ∧
      overrunCause { ready with sampler.rxStall := true } .half0 = some .samplerStall ∧
      overrunCause { both with adc.fifoOverflow := true } .half0 = some .adcOverflow ∧
      overrunCause mid .half0 = some .peerIdle ∧ overrunCause ready .half0 = none ∧
      overrunCause { mid with session.maskOverrunAsBenign := true } .half0 = none := by decide

theorem test_witness_wind_down :
    { mid with session.aborted := true }.session.aborted = true ∧ markerDue mid = true ∧
      markerDue { mid with tx.nextMarkerUs := 1 } = false ∧
      markerDue { mid with params.timed := false, env.sendMarker := true } = true ∧
      mid.session.aborted = false := by decide

/-- The last word of the loop, both paths, and the end of it. -/
theorem test_witness_nibble :
    ({ mid with enc.seeded := true }).enc.seeded = true ∧ mid.enc.seeded = false ∧
      (match memRead mid (mid.session.digOff .half0).toNat 4 with
        | .ok w => w == 0x76543210 | .error _ => false) = true ∧
      0 < mid.session.samplesPerHalf.toNat / 8 ∧ mid.session.samplesPerHalf.toNat / 8 ≤ 1 ∧
      (∀ j, j < 8 → nib 0x33333333 j = nib 0x33333333 0) ∧
      ¬ ∀ j, j < 8 → nib 0x76543210 j = nib 0x76543210 0 := by decide

theorem test_witness_byte :
    mid.enc.seeded = false ∧ 7 < mid.session.samplesPerHalf.toNat ∧ mid.session.samplesPerHalf.toNat ≤ 8 ∧
      [1, 2, 4].all (fun wd => match memRead mid (mid.session.digOff .half0).toNat wd with
        | .ok w => w == BitVec.ofNat 32 (0x76543210 % 2 ^ (8 * wd)) | .error _ => false) = true := by decide

theorem test_witness_interleave :
    1 < both.session.samplesPerHalf.toNat ∧ digEn both = true ∧
      (match digSample both .half0 1 with | .ok d => d == 1 | .error _ => false) = true ∧
      [(0x10 : Word)].length = both.session.analogCount.toNat ∧
      (match memRead both ((both.session.anaOff .half0).toNat + 1 * 1 + 0) 1 with
        | .ok a => a == 0x10 | .error _ => false) = true := by decide

theorem test_witness_streams :
    (∀ ws ∈ [[(0 : Word)], [0, 1]], ws ≠ [] ∧ 8 * ws.length < 2 ^ 32) ∧
      (∀ vs ∈ [[(0x55 : Word), 0x55, 0x2A]], vs ≠ [] ∧ vs.length < 2 ^ 32) ∧
      (∀ x ∈ [((0xA5 : Word), [(0xFF : Word), 1])], x.2.length = 2 ∧ ∀ a ∈ x.2, a.toNat < 256) :=
  ⟨by simp, by simp, by simp⟩

/-- A half of one word, over an ideal transport. -/
theorem test_witness_half_reaches_wire :
    1 ≤ mid.params.txbufCapacity ∧ IdealTransport mid ∧ mid.tx.buf.live = [] ∧
      HalfHolds mid .half0 [0x76543210] ∧
      { mid with seqA.todo := [.encNibble .start .half0] }.seqA.todo = [.encNibble .start .half0] := by
  refine ⟨by decide, ⟨by decide, by decide, by decide⟩, rfl, ⟨by decide, fun i hi => ?_⟩, rfl⟩
  have : i = 0 := by simpa using hi
  subst this
  rfl

theorem test_witness_emission :
    emittedByte (.outNrun 48) = some 0x30 ∧ emittedByte (.outTagged 7 15) = some 255 ∧
      emittedByte (.emit 0x30) = some 0x30 ∧
      State.reset.tx.buf.live.length ≠ State.reset.params.txbufCapacity ∧
      { State.reset with tx.buf := ⟨List.replicate 64 0x80, []⟩ }.tx.buf.live.length
        = State.reset.params.txbufCapacity := by decide

theorem test_witness_records :
    ([0] : List Nat) ≠ [] ∧ (∀ d ∈ ([9, 0] : List Nat), d < 10) ∧
      (([0] : List Nat).head? = some 0 → ([0] : List Nat).length = 1) ∧
      ([9, 0] : List Nat).head? ≠ some 0 ∧ State.reset.params.wf = true := by decide

theorem test_witness_flush :
    State.reset.tx.buf.live = [] ∧ { State.reset with tx.buf := ⟨[0x80], []⟩ }.tx.buf.live ≠ [] ∧
      State.reset.params.txFlushThresh ≤ (List.replicate 32 (0x80 : Byte)).length ∧
      (List.replicate 31 (0x80 : Byte)).length < State.reset.params.txFlushThresh := by decide

theorem test_witness_send :
    State.reset.env.connected = false ∧ mid.env.connected = true ∧ 0 < mid.env.writeAvailable ∧
      min 1 mid.env.writeAvailable ≤ mid.env.availableAtCall ∧ State.reset.env.writeAvailable = 0 ∧
      State.reset.env.connectedLater = false ∧
      sendTimedOut { State.reset with nowUs := 500001 } = true ∧
      sendTimedOut { mid with nowUs := 500000 } = false ∧ mid.env.connectedLater = true ∧
      sendTimedOut { mid with params.timed := false, env.giveUp := true } = true := by decide

theorem test_witness_ideal_send :
    IdealTransport mid ∧ (mid.setTodo .a [sendCall .a [0x80] true]).todo .a
        = .send .a .entry [0x80] true :: [] ∧
      (mid.setTodo .b [sendCall .b [0x2A] false]).todo .b = .send .b .entry [0x2A] false :: [] :=
  ⟨⟨by decide, by decide, by decide⟩, rfl, rfl⟩

theorem test_witness_wake :
    State.reset.wakeEvt = false ∧ { State.reset with wakeEvt := true }.wakeEvt = true := by decide

/-! A fair run: nothing enabled, no characters, SEQ_A's loop waking SEQ_B, the agents taking turns. -/

/-- A state in which no capture runs, none is requested, and nothing arrives. -/
structure Quiet (s : State) : Prop where
  params_ok : s.params.arenaOk = true
  timed : s.params.timed = true
  idle : s.ctrlState = .idle
  not_pending : armPending s = false
  not_started : s.session.started = false
  nothing_received : s.port.rx = []
  channels : ∀ c, (s.chan c).busy = false
  sampler_off : s.sampler.running = false
  adc_off : s.adc.running = false
  a_work : s.seqA.todo = [] ∨ s.seqA.todo = [.wake .signal]
  b_work : s.seqB.todo = [] ∨ s.seqB.todo = [.wake .wait]

/-- Any agent but the host moves on from a quiet state to a quiet state. -/
theorem quiet_step {s : State} (h : Quiet s) (a : Agent) (ha : a ≠ .host) :
    ∃ t, stepUnder (inputsFor a) s = .next t ∧ Quiet t := by
  obtain ⟨h1, h2, h3, h4, h5, h6, h7, h8, h9, h10, h11⟩ := h
  have hc : captureActive s = false := by simp [captureActive, h4, h5]
  unfold stepUnder step
  rw [if_pos (show s.params.arenaOk = true from h1)]
  generalize hu : takeInputs { s with script := [inputsFor a] } = u
  have huq : Quiet u := by subst hu; exact ⟨h1, h2, h3, h4, h5, h6, h7, h8, h9, h10, h11⟩
  have hue : u.env = inputsFor a := by subst hu; rfl
  have huc : captureActive u = false := by subst hu; exact hc
  clear hu h1 h2 h3 h4 h5 h6 h7 h8 h9 h10 h11 hc
  obtain ⟨h1, h2, h3, h4, h5, h6, h7, h8, h9, h10, h11⟩ := huq
  cases a with
  | host => exact absurd rfl ha
  | seqA =>
    simp only [nextAction, hue, inputsFor, actionA]
    obtain h | h := h10 <;> rw [h]
    · cases hp : u.seqA.pos
      · refine ⟨_, rfl, ⟨h1, h2, h3, h4, h5, h6, h7, h8, h9, ?_, h11⟩⟩
        simp only [beginIteration]
        split <;> simp
      · have he : iterationOps u = [] := by simp [iterationOps, h3, h4]
        simp only [he]
        exact ⟨_, rfl, ⟨h1, h2, h3, h4, h5, h6, h7, h8, h9, .inl rfl, h11⟩⟩
    · exact ⟨_, rfl, ⟨h1, h2, h3, h4, h5, h6, h7, h8, h9, .inl rfl, h11⟩⟩
  | seqB =>
    simp only [nextAction, hue, inputsFor, actionB]
    obtain h | h := h11 <;> rw [h]
    · cases hp : u.seqB.pos <;>
        simp only [huc, takeChar, h6, Bool.false_eq_true, if_false] <;>
        exact ⟨_, rfl, ⟨h1, h2, h3, h4, h5, h6, h7, h8, h9, h10, .inl rfl⟩⟩
    · simp only [runAction, exec, execWake]
      split
      · exact ⟨_, rfl, ⟨h1, h2, h3, h4, h5, h6, h7, h8, h9, h10, .inl rfl⟩⟩
      · exact ⟨_, rfl, ⟨h1, h2, h3, h4, h5, h6, h7, h8, h9, h10, .inr rfl⟩⟩
  | dma c =>
    refine ⟨u, ?_, ⟨h1, h2, h3, h4, h5, h6, h7, h8, h9, h10, h11⟩⟩
    simp only [nextAction, hue, inputsFor, runAction, exec, execDmaXfer, dmaXferOp, h7,
      Bool.false_eq_true, if_false]
    rfl
  | sampler =>
    refine ⟨u, ?_, ⟨h1, h2, h3, h4, h5, h6, h7, h8, h9, h10, h11⟩⟩
    simp [nextAction, hue, inputsFor, runAction, samplerDeliver, h8]
  | adc =>
    refine ⟨u, ?_, ⟨h1, h2, h3, h4, h5, h6, h7, h8, h9, h10, h11⟩⟩
    simp [nextAction, hue, inputsFor, runAction, adcDeliver, h9]

/-- The place of an agent in the turns. -/
def turnOf : Agent → Nat
  | .seqA => 0
  | .seqB => 1
  | .dma .d0 => 2
  | .dma .d1 => 3
  | .dma .a0 => 4
  | .dma .a1 => 5
  | .sampler => 6
  | .adc => 7
  | .host => 8

/-- The agents but the host, in turns. -/
def turnAt (n : Nat) : Agent :=
  [Agent.seqA, .seqB, .dma .d0, .dma .d1, .dma .a0, .dma .a1, .sampler, .adc].getD (n % 8) .seqA

theorem turnAt_turnOf (a : Agent) (ha : a ≠ .host) (n : Nat) : turnAt (8 * n + turnOf a) = a := by
  have h : ∀ k, k < 8 → (8 * n + k) % 8 = k := by omega
  unfold turnAt
  cases a with
  | host => exact absurd rfl ha
  | dma c => cases c <;> (rw [h _ (by decide)]; rfl)
  | _ => rw [h _ (by decide)]; rfl

theorem turnAt_ne_host (n : Nat) : turnAt n ≠ .host := by
  have h : ∀ k, k < 8 → turnAt k ≠ .host := by decide
  have e : turnAt n = turnAt (n % 8) := by simp [turnAt]
  rw [e]
  exact h _ (Nat.mod_lt _ (by decide))

/-- The run from a state in which the agents take turns. -/
def turnsFrom (s : State) : Nat → State
  | 0 => s
  | n + 1 =>
    match stepUnder (inputsFor (turnAt n)) (turnsFrom s n) with
    | .next t => t
    | _ => turnsFrom s n

theorem turnsFrom_quiet {s : State} (h : Quiet s) (n : Nat) : Quiet (turnsFrom s n) := by
  induction n with
  | zero => exact h
  | succ n ih =>
    obtain ⟨t, ht, hq⟩ := quiet_step ih (turnAt n) (turnAt_ne_host n)
    simpa [turnsFrom, ht] using hq

/-- A fair run in which SEQ_B waits with the event set. -/
theorem test_witness_wake_fair :
    ∃ inputs run, IsRun inputs run ∧ Fair inputs run ∧ OwnOps (run 0) ∧ (run 0).wakeEvt = true ∧
      (run 0).seqB.todo = [.wake .wait] := by
  let s : State := { State.reset with wakeEvt := true, seqB.todo := [.wake .wait] }
  have hq : Quiet s := ⟨by decide, rfl, rfl, by decide, rfl, rfl, fun c => by cases c <;> rfl, rfl, rfl,
    .inl rfl, .inr rfl⟩
  refine ⟨fun n => inputsFor (turnAt n), turnsFrom s, fun n => ?_, ⟨fun n a ha => ?_, ?_⟩,
    ⟨by decide, by decide⟩, rfl, rfl⟩
  · obtain ⟨t, ht, -⟩ := quiet_step (turnsFrom_quiet hq n) (turnAt n) (turnAt_ne_host n)
    simp [turnsFrom, ht]
  · have hne : a ≠ .host := by
      rintro rfl
      cases ha
    exact ⟨8 * n + turnOf a, by omega, .inl (turnAt_turnOf a hne n)⟩
  · intro n _ _ _ _ ht
    rw [(turnsFrom_quiet hq n).timed] at ht
    cases ht

theorem test_witness_next_operation :
    State.reset.params.arenaOk = true ∧
      (takeInputs (turn .seqA { mid with seqA.todo := [.thresholdFlush] })).env.agent = .seqA ∧
      (takeInputs (turn .seqB { mid with seqB.todo := [.wake .wait] })).env.agent = .seqB ∧
      (takeInputs (turn (.dma .d0) mid)).env.agent = .dma .d0 ∧
      (turn .seqB { mid with port.rx := [0x2A], seqB := ⟨.body, []⟩ }).port.rx = [0x2A] ∧
      captureActive State.reset = false ∧ captureActive mid = true ∧ mid.seqB = ⟨.top, []⟩ ∧
      State.reset.seqB = ⟨.top, []⟩ ∧ State.reset.port.rx = [] ∧ (mid.chan .d1).busy = false ∧
      isDigital .a1 = false ∧ mid.adc.fifo = [] ∧ enabled mid (.dma .d0) = true ∧
      enabled mid (.dma .d1) = false ∧ enabled mid .adc = false ∧
      enabled { mid with seqB.todo := [.wake .wait] } .seqB = false := by decide

/-- A line command, an empty line, and RESET_CHAR inside a line. -/
theorem test_witness_decoded_command :
    let s := turn .seqB (holding [0x4C, 0x36] { State.reset with port.rx := [0x0D] })
    s.params.arenaOk = true ∧ (takeInputs s).env.agent = .seqB ∧ s.seqB.todo = [] ∧
      captureActive s = false ∧ s.port.rx = [0x0D] ∧ s.session.cmdBuf.live ≠ [] ∧
      decodeCommand s.params (s.session.cmdBuf.live ++ [0x0D]) = .ok (.limit [0x36], []) ∧
      decodeCommand s.params ([] ++ [0x0D]) = .ok (.emptyLine, []) ∧
      decodeCommand s.params (s.session.cmdBuf.live ++ [0x2A]) = .ok (.reset, []) := by decide

theorem test_witness_loop_a :
    State.reset.params.arenaOk = true ∧ (takeInputs (turn .seqA mid)).env.agent = .seqA ∧
      mid.seqA = ⟨.top, []⟩ ∧ { mid with seqA.pos := .body }.seqA.pos = .body ∧
      planned.ctrlState = .idle ∧ armPending planned = true ∧ armPending State.reset = false ∧
      mid.ctrlState = .capturing ∧ mid.session.sending = true ∧
      { mid with ctrlState := .armed }.ctrlState = .armed ∧
      { mid with session.sending := false }.session.sending = false ∧
      { mid with ctrlState := .completed }.ctrlState = .completed ∧
      { mid with ctrlState := .aborted }.ctrlState = .aborted := by decide

theorem test_witness_agents :
    (takeInputs (turn .sampler mid)).env.agent = .sampler ∧ (takeInputs (turn .adc mid)).env.agent = .adc ∧
      (takeInputs (turn .host mid)).env.agent = .host ∧ State.reset.sampler.running = false ∧
      State.reset.adc.running = false ∧ mid.sampler.running = true ∧
      mid.sampler.fifo.length < mid.params.samplerFifoDepth ∧
      mid.params.samplerFifoDepth ≤ [(0 : Word), 0, 0, 0].length ∧ both.adc.running = true ∧
      both.adc.fifo.length < both.params.adcFifoDepth ∧
      both.params.adcFifoDepth ≤ [(0 : Byte), 0, 0, 0].length := by decide

theorem test_witness_reset_params : stdParams.wf = true := by decide

/-- A transfer in the middle of a capture keeps to the hypotheses of StepKeepsStorage. -/
theorem test_witness_storage :
    StorageInv (turn (.dma .d0) mid) ∧ ∃ t, step (turn (.dma .d0) mid) = .next t ∧ (t.chan .d1).busy = true :=
  ⟨⟨by decide, by decide, by decide, by decide, by decide, by decide, by decide, by decide, by decide,
    by decide⟩, exists_of_nextIs (by decide)⟩

/-- SEQ_A finds half 0 complete: its poll stands on the work list. -/
def polling : State := turn .seqA { ready with seqA.todo := [.checkHalf .poll .half0] }

theorem test_witness_capture_flags :
    CaptureInv polling ∧ ∃ t, step polling = .next t ∧ (t.seqA.todo != []) = true := by
  refine ⟨⟨⟨by decide, by decide⟩, by decide, by decide, by decide, by decide, by decide, by decide,
    fun _ _ _ => rfl, ?_, ?_, ?_⟩, exists_of_nextIs (by decide)⟩
  · intro h
    exact absurd h (by decide)
  · intro st _ h
    cases List.mem_singleton.1 h
  · intro st h
    cases List.mem_singleton.1 h

theorem test_witness_channel_pairs :
    PairInv (turn (.dma .d0) mid) ∧ ∃ t, step (turn (.dma .d0) mid) = .next t ∧
      decide ((t.chan .d0).busy = false ∧ (t.chan .d1).busy = true) = true := by
  refine ⟨⟨⟨by decide, by decide⟩, ?_, ?_, by decide, by decide⟩, exists_of_nextIs (by decide)⟩ <;>
    intro c <;> cases c <;> decide

/-- SEQ_B discards a character during a capture; it takes a RESET_CHAR, but not while it has work to do,
nor before it has waited. -/
theorem test_witness_owners :
    OwnOps (turn .seqB { mid with seqB.pos := .body, port.rx := [0x4C] }) ∧
      (∃ t, step (turn .seqB { mid with seqB.pos := .body, port.rx := [0x4C] }) = .next t ∧
        (t.port.rx == []) = true) ∧
      captureActive mid = true ∧
      ¬ takesReset (turn .seqB { mid with seqB.pos := .body, port.rx := [0x4C] }) ∧
      OwnOps polling ∧ OwnOps (turn (.dma .d0) mid) ∧
      takesReset (turn .seqB { mid with seqB.pos := .body, port.rx := [0x2A] }) ∧
      ¬ takesReset (turn .seqB { mid with port.rx := [0x2A] }) ∧
      ¬ takesReset (turn .seqB { mid with seqB := ⟨.body, [.wake .wait]⟩, port.rx := [0x2A] }) := by
  refine ⟨⟨by decide, by decide⟩, exists_of_nextIs (by decide), by decide, ?_, ⟨by decide, by decide⟩,
    ⟨by decide, by decide⟩, ⟨by decide, by decide, by decide, by decide⟩, ?_, ?_⟩
  · rintro ⟨-, -, -, h⟩
    exact absurd h (by decide)
  · rintro ⟨-, -, h, -⟩
    exact absurd h (by decide)
  · rintro ⟨-, h, -⟩
    exact absurd h (by decide)

end Sys2Proof.Tests
end

section
/-! PROOFS. Proofs/Scope.lean: the stops under an arena that is too small (spec/00_scope.md rule R10), the
bytes that the output alphabet emits (spec/46_transmitter.md rule R288), and the records and responses
(spec/30_encoding.md rules R105 to R108). -/

namespace Sys2Proof.Machine

/-! ## The parameters (R10) -/

/-- The arena constraint of rule R10, with 56 bytes for the two largest chunks. -/
theorem arenaOk_iff (p : Params) :
    p.arenaOk = true ↔ 1 ≤ p.chunkMult ∧ 2 * 28 * p.chunkMult ≤ p.arenaCapacity := by
  rw [Params.arenaOk, Bool.and_eq_true, decide_eq_true_eq, decide_eq_true_eq]
  rfl

theorem isTextChar_iff (c : Byte) :
    isTextChar c = true ↔ c.toNat < 0x80 ∧ c ≠ 0x0D ∧ c ≠ 0x0A := by
  simp [isTextChar, Config.charCR, Config.charLF, and_assoc]

/-- Well-formed parameters hold text in both of their strings. -/
theorem wf_strings_text {p : Params} (h : p.wf = true) :
    p.protocolVersion.all isTextChar = true ∧ p.analogScaleStr.all isTextChar = true := by
  simp only [Params.wf, Bool.and_eq_true] at h
  obtain ⟨⟨⟨⟨⟨⟨⟨-, hversion⟩, hscale⟩, -⟩, -⟩, -⟩, -⟩, -⟩ := h
  exact ⟨hversion, hscale⟩

/-! ## An arena that is too small (R178, R335) -/

theorem planOp_refused {s : State} (h : s.params.arenaOk = false) :
    planOp s = .refused .parameterChoice := by
  simp [planOp, h]

theorem startCapture_refused {s : State} (cont : Bool) (h : s.params.arenaOk = false) :
    startCapture s cont = .refused .parameterChoice := by
  rw [startCapture, planOp_refused (s := { s with session.continuous := cont }) h, andThen_refused]

theorem step_arenaFatal {s : State} (h : s.params.arenaOk = false) :
    step s = .fault .arenaFatal := by
  simp [step, h]

/-- Settles O21: FIXED and CONT call PLAN, which refuses, and step tests the same constraint first. -/
theorem tooSmallArenaStops : Obligations.TooSmallArenaStops := by
  intro s args
  refine ⟨arenaOk_iff s.params, fun h => ⟨?plan, ?fixed, ?cont, step_arenaFatal h⟩⟩
  case plan => exact planOp_refused h
  case fixed => exact startCapture_refused false h
  case cont => exact startCapture_refused true h

/-! ## Emitted bytes (R100 to R104, R288) -/

/-- The three fields of a tagged byte do not overlap. -/
theorem taggedByte_eq_ofNat (run : BitVec 3) (value : Nibble) :
    taggedByte run value = BitVec.ofNat 8 (128 + 16 * run.toNat + value.toNat) := by
  revert run value
  decide

theorem dataByte_eq_ofNat (d : BitVec 7) : dataByte d = BitVec.ofNat 8 (128 + d.toNat) := by
  revert d
  decide

theorem runByte_eq_ofNat (n : BitVec 7) : runByte n = BitVec.ofNat 8 n.toNat :=
  (BitVec.ofNat_toNat 8 n).symm

/-- Every operation that emits a byte is Emit of that byte, and the value fits a byte. -/
theorem exec_of_emittedByte {i : Instr} {n : Nat} (h : emittedByte i = some n) (s : State) :
    exec i s = emitByte s (BitVec.ofNat 8 n) ∧ n < 256 := by
  cases i with
  | outTagged run value =>
    cases h
    exact ⟨congrArg (emitByte s) (taggedByte_eq_ofNat run value), by omega⟩
  | outNrun m | outBrunDirect m | outBrunStep m =>
    cases h
    exact ⟨congrArg (emitByte s) (runByte_eq_ofNat m), by omega⟩
  | outGroup d | outAnalog d =>
    cases h
    exact ⟨congrArg (emitByte s) (dataByte_eq_ofNat d), by omega⟩
  | emit b =>
    cases h
    exact ⟨congrArg (emitByte s) (by simp), b.isLt⟩
  | _ => cases h

/-- With room in the transmit buffer, a byte that is not reserved is appended to it. -/
theorem emitByte_of_room {s : State} {b : Byte} (hb : 0x30 ≤ b.toNat)
    (hroom : s.tx.buf.live.length ≠ s.params.txbufCapacity) :
    emitByte s b = .next { s with
      tx.buf := ⟨s.tx.buf.live ++ [b], s.tx.buf.stale.drop 1⟩, encoded := s.encoded ++ [b] } := by
  rw [emitByte_eq, if_neg (Nat.not_lt.2 hb), if_neg hroom]
  rfl

/-- A full transmit buffer is flushed before the byte is tried again. -/
theorem emitByte_of_full {s : State} {b : Byte} (hb : 0x30 ≤ b.toNat)
    (hfull : s.tx.buf.live.length = s.params.txbufCapacity) :
    emitByte s b = .next { s with seqA.todo := .txflush .start :: .emit b :: s.seqA.todo } := by
  rw [emitByte_eq, if_neg (Nat.not_lt.2 hb), if_pos hfull]
  rfl

/-- Settles O42: the seven operations are Emit of their byte, and Emit has these two cases. -/
theorem emissionAppendsOrFlushes : Obligations.EmissionAppendsOrFlushes := by
  intro i n s hi hn
  obtain ⟨hexec, hlt⟩ := exec_of_emittedByte hi s
  have hb : 0x30 ≤ (BitVec.ofNat 8 n).toNat := by
    rwa [BitVec.toNat_ofNat, Nat.mod_eq_of_lt hlt]
  rw [hexec]
  exact ⟨emitByte_of_room hb, emitByte_of_full hb⟩

/-! ## Decimal strings (R13, R106) -/

/-- With fuel enough, `decDigits` puts the digits of a positive number, most significant first, before
the accumulator. -/
theorem decDigits_eq_digits {fuel n : Nat} (acc : List Byte) (hpos : 0 < n) (hfuel : n < fuel) :
    decDigits fuel n acc = (Nat.digits 10 n).reverse.map digitOf ++ acc := by
  induction fuel generalizing n acc with
  | zero => omega
  | succ fuel ih =>
    by_cases hlt : n < 10
    · rw [decDigits, if_pos hlt, Nat.digits_of_lt 10 n hpos.ne' hlt]
      rfl
    · rw [decDigits, if_neg hlt, ih _ (by omega) (by omega), Nat.digits_def' (by decide) hpos]
      simp

theorem dec_eq_digits {n : Nat} (hpos : 0 < n) :
    dec n = (Nat.digits 10 n).reverse.map digitOf := by
  rw [dec, decDigits_eq_digits [] hpos n.lt_succ_self, List.append_nil]

/-- `dec` writes the shortest string: a digit string without a superfluous leading zero is `dec` of the
number it spells. -/
theorem dec_ofDigits {ds : List Nat} (hne : ds ≠ []) (hlt : ∀ d ∈ ds, d < 10)
    (hlead : ds.head? = some 0 → ds.length = 1) :
    dec (Nat.ofDigits 10 ds.reverse) = ds.map digitOf := by
  obtain ⟨d, rest, rfl⟩ := List.exists_cons_of_ne_nil hne
  by_cases hd : d = 0
  · subst hd
    obtain rfl : rest = [] := by simpa using hlead rfl
    rfl
  · have hdigits : Nat.digits 10 (Nat.ofDigits 10 (d :: rest).reverse) = (d :: rest).reverse :=
      Nat.digits_ofDigits 10 (by decide) _
        (fun e he => hlt e (List.mem_reverse.1 he)) (by simpa using hd)
    have hpos : 0 < Nat.ofDigits 10 (d :: rest).reverse := by
      refine Nat.pos_of_ne_zero fun h0 => ?_
      rw [h0, Nat.digits_zero] at hdigits
      exact absurd hdigits.symm (by simp)
    rw [dec_eq_digits hpos, hdigits, List.reverse_reverse]

/-! ## Records and responses (R105 to R108, R297, R298) -/

/-- The identity string spelt out: NUM_A_CHAN and NUM_D_CHAN are constants, the version a parameter. -/
theorem identString_eq (p : Params) :
    identString p =
      [0x53, 0x52, 0x50, 0x49, 0x43, 0x4F, 0x2C, 0x41, 0x30, 0x33, 0x31, 0x44, 0x32, 0x31, 0x2C]
        ++ p.protocolVersion := rfl

theorem exec_outRecord_eq (count : Nat) (s : State) :
    exec (.outRecord count) s = .next { s with
      seqA.todo := .send .a .entry (0x24 :: (dec count ++ [0x2B])) false :: s.seqA.todo } := rfl

/-- Under well-formed parameters the acknowledgement, the identity string and the analog scale string are
text (R107, R108). -/
theorem responses_text {p : Params} (h : p.wf = true) :
    (ackBytes ++ identString p ++ p.analogScaleStr).all isTextChar = true := by
  obtain ⟨hversion, hscale⟩ := wf_strings_text h
  rw [identString_eq, List.all_append, List.all_append, List.all_append, hversion, hscale]
  rfl

/-- Settles O43: each row is one Send put on its sequencer's list; the count's digits are `dec_ofDigits`,
and each response is text under well-formed parameters. -/
theorem recordsAndResponsesAreSent : Obligations.RecordsAndResponsesAreSent := by
  intro s
  refine ⟨rfl, ?record, rfl, rfl, ?text⟩
  case record =>
    intro ds hne hlt hlead
    rw [exec_outRecord_eq, dec_ofDigits hne hlt hlead]
    rfl
  case text =>
    intro hwf c hc
    exact (isTextChar_iff c).1 (List.all_eq_true.1 (responses_text hwf) c hc)

end Sys2Proof.Machine
end

section
/-! PROOFS. Proofs/Steps.lean: everything one step of the machine can do, agent by agent
(spec/47_scheduler.md rules R312 to R317; spec/10_state.md rule R41), and everything ARM can do
(spec/42_dma_capture.md rule R193). -/

namespace Sys2Proof.Machine

/-! ## The two sequencers -/

/-- Everything SEQ_A's next step can do (R312): the head of its work list, the start of an iteration, the
operation that the `case` calls, or an iteration that calls none. -/
inductive StepA (s t : State) : Prop
  | work {i : Instr} {rest : List Instr} (todo : s.seqA.todo = i :: rest)
      (runs : exec i { s with seqA.todo := rest } = .next t)
  | count (todo : s.seqA.todo = []) (next : t = beginIteration s)
  | call {i : Instr} {rest : List Instr} (todo : s.seqA.todo = []) (ops : iterationOps s = i :: rest)
      (runs : exec i { s with seqA := ⟨.top, rest⟩ } = .next t)
  | pass (todo : s.seqA.todo = []) (next : t = { s with seqA := ⟨.top, []⟩ })

/-- Everything SEQ_B's next step can do (R316): the head of its work list, the wait for the wake event, a
character to ROUTE, or a poll that finds none. -/
inductive StepB (s t : State) : Prop
  | work {i : Instr} {rest : List Instr} (todo : s.seqB.todo = i :: rest)
      (runs : exec i { s with seqB.todo := rest } = .next t)
  | wait (todo : s.seqB.todo = []) (next : t = { s with seqB := ⟨.body, [.wake .wait]⟩ })
  | poll {c : Byte} {rest : List Byte} (todo : s.seqB.todo = [])
      (polls : s.seqB.pos = .body ∨ captureActive s = false) (rx : s.port.rx = c :: rest)
      (runs : execRoute c { s with port.rx := rest, seqB := ⟨.top, []⟩ } = .next t)
  | none (todo : s.seqB.todo = []) (next : t = { s with seqB := ⟨.top, []⟩ })

theorem stepA_of_action {s t : State} (h : runAction (actionA s) = .next t) : StepA s t := by
  unfold actionA at h
  split at h
  next i rest htodo => exact .work htodo h
  next htodo =>
    split at h
    · cases h
      exact .count htodo rfl
    · split at h
      next i rest hops => exact .call htodo hops h
      next =>
        cases h
        exact .pass htodo rfl

theorem stepB_of_takeChar {s t : State} (htodo : s.seqB.todo = [])
    (hpolls : s.seqB.pos = .body ∨ captureActive s = false)
    (h : runAction (takeChar s) = .next t) : StepB s t := by
  unfold takeChar at h
  split at h
  next c rest hrx => exact .poll htodo hpolls hrx h
  next =>
    cases h
    exact .none htodo rfl

theorem stepB_of_action {s t : State} (h : runAction (actionB s) = .next t) : StepB s t := by
  unfold actionB at h
  split at h
  next i rest htodo => exact .work htodo h
  next htodo =>
    split at h
    next =>
      split at h
      · cases h
        exact .wait htodo rfl
      next hidle => exact stepB_of_takeChar htodo (.inr (Bool.eq_false_of_not_eq_true hidle)) h
    next hbody => exact stepB_of_takeChar htodo (.inl hbody) h

/-- What the `case ctrl_state` of an iteration calls, and what it leaves on the work list (R312). -/
inductive Called (s : State) : Instr → List Instr → Prop
  | configure (ctrl : s.ctrlState = .idle) : Called s (.arm .configure) []
  | start (ctrl : s.ctrlState = .armed) : Called s (.arm .start) []
  | stop (ctrl : s.ctrlState = .armed ∨ s.ctrlState = .capturing)
      (sending : s.session.sending = false) : Called s .stop [.windDownNormal .completed]
  | check (ctrl : s.ctrlState = .capturing) : Called s (.checkHalf .poll s.curHalf) []
  | flush (ctrl : s.ctrlState = .completed) : Called s (.windDownNormal .flush) []
  | abort (ctrl : s.ctrlState = .aborted) : Called s .stop [.windDownAborted .check]

theorem called_of_iterationOps {s : State} {i : Instr} {rest : List Instr}
    (h : iterationOps s = i :: rest) : Called s i rest := by
  unfold iterationOps at h
  split at h
  next hc =>
    split at h <;> cases h
    exact .configure hc
  next hc =>
    split at h <;> cases h
    next => exact .start hc
    next hs => exact .stop (.inl hc) (Bool.eq_false_of_not_eq_true hs)
  next hc =>
    split at h <;> cases h
    next => exact .check hc
    next hs => exact .stop (.inr hc) (Bool.eq_false_of_not_eq_true hs)
  next hc =>
    cases h
    exact .flush hc
  next hc =>
    cases h
    exact .abort hc

/-! ## All agents -/

/-- Everything the agent that moves can do, once the inputs of the step are taken. -/
inductive Moves (s t : State) : Prop
  | seqA (agent : s.env.agent = .seqA) (move : StepA s t)
  | seqB (agent : s.env.agent = .seqB) (move : StepB s t)
  | dma {c : Chan} (agent : s.env.agent = .dma c) (move : dmaXferOp s c = .ok t)
  | sampler (agent : s.env.agent = .sampler) (next : t = samplerDeliver s s.env.sample)
  | adc (agent : s.env.agent = .adc) (next : t = adcDeliver s s.env.conversion)
  | host (agent : s.env.agent = .host) (next : t = hostSend s s.env.hostChar)

/-- Everything a step can do. -/
theorem moves_of_step {s t : State} (h : step s = .next t) : Moves (takeInputs s) t := by
  obtain ⟨-, hrun⟩ := step_next.1 h
  unfold nextAction at hrun
  split at hrun
  next ha => exact .seqA ha (stepA_of_action hrun)
  next ha => exact .seqB ha (stepB_of_action hrun)
  next c ha => exact .dma ha (ofExcept_eq_next.1 hrun)
  next ha =>
    cases hrun
    exact .sampler ha rfl
  next ha =>
    cases hrun
    exact .adc ha rfl
  next ha =>
    cases hrun
    exact .host ha rfl

/-! ## ARM (spec/42_dma_capture.md rules R193 to R195) -/

/-- The configuration of a pair writes channel registers only (R193). -/
theorem configurePair_same {s t : State} {c0 c1 : Chan} {off0 off1 n : Word} (hne : c0 ≠ c1)
    (h : configurePair s c0 c1 off0 off1 n = .ok t) : t = { s with dma := t.dma } := by
  obtain ⟨-, -, -, rfl⟩ := (configurePair_ok hne).1 h
  rfl

theorem configureDigital_same {s t : State} (h : configureDigital s = .ok t) :
    t = { s with dma := t.dma } := by
  unfold configureDigital at h
  split at h
  · exact configurePair_same (by decide) h
  · cases h
    rfl

theorem configureAnalog_same {s t : State} (h : configureAnalog s = .ok t) :
    t = { s with dma := t.dma } := by
  unfold configureAnalog at h
  split at h
  · exact configurePair_same (by decide) h
  · cases h
    rfl

/-- Everything ARM_CONFIGURE can do (R193, R195). -/
theorem armConfigure_next {s t : State} (h : armConfigure s = .next t) :
    (s.session.variant = .none ∧
      t = { armClear s with session.sending := false, ctrlState := .completed }) ∨
    (∃ s2 s3, configureDigital (armPeripherals (armClear s)) = .ok s2 ∧
      configureAnalog s2 = .ok s3 ∧ t = { s3 with ctrlState := .armed }) := by
  unfold armConfigure at h
  dsimp only at h
  split at h
  next hv =>
    cases h
    exact .inl ⟨hv, rfl⟩
  next =>
    obtain ⟨s2, h2, h⟩ := withValue_eq_next.1 h
    obtain ⟨s3, h3, h⟩ := withValue_eq_next.1 h
    cases h
    exact .inr ⟨s2, s3, h2, h3, rfl⟩

/-- After ARM_CONFIGURE with a channel enabled, all but the channels is known (R193). -/
theorem armConfigure_same {s t : State} (h : armConfigure s = .next t) :
    t = { armClear s with session.sending := false, ctrlState := .completed } ∨
    t = { armPeripherals (armClear s) with dma := t.dma, ctrlState := .armed } := by
  obtain ⟨-, rfl⟩ | ⟨s2, s3, h2, h3, rfl⟩ := armConfigure_next h
  · exact .inl rfl
  · have e3 := configureAnalog_same h3
    rw [configureDigital_same h2] at e3
    rw [e3]
    exact .inr rfl

/-- ARM_START writes the two peripherals and the controller's state, and leaves the FIFOs alone
(R193, R194). -/
theorem armStart_same (s : State) :
    armStart s = { s with
      sampler.running := (armStart s).sampler.running
      adc.running := (armStart s).adc.running
      ctrlState := .capturing } := by
  unfold armStart samplerStart adcStart
  split <;> split <;> rfl

end Sys2Proof.Machine
end

section
/-! PROOFS. Proofs/Storage.lean: every operation keeps the arena canonical and every buffer, queue and string
inside its capacity (spec/10_state.md rules R29, R35, R37, R43; spec/20_memory.md rule R60). -/

namespace Sys2Proof.Machine

/-! ## What the storage invariant reads -/

/-- The registers that the storage invariant is about. -/
def storageOf (s : State) :
    Params × Memory × ByteBuf × ByteBuf × List Byte × List Word × List Byte :=
  (s.params, s.arena, s.tx.buf, s.session.cmdBuf, s.session.rsp, s.sampler.fifo, s.adc.fifo)

/-- A step that writes none of them keeps the invariant. -/
theorem StorageInv.congr {s t : State} (h : StorageInv s) (e : storageOf t = storageOf s) :
    StorageInv t := by
  simp only [storageOf, Prod.mk.injEq] at e
  obtain ⟨hp, ha, ht, hc, hr, hs, hd⟩ := e
  constructor
  case params_ok => exact hp ▸ h.params_ok
  case arena_sorted => exact ha ▸ h.arena_sorted
  case arena_inside => exact hp ▸ ha ▸ h.arena_inside
  case tx_fits => exact hp ▸ ht ▸ h.tx_fits
  case tx_array => exact hp ▸ ht ▸ h.tx_array
  case cmd_fits => exact hp ▸ hc ▸ h.cmd_fits
  case cmd_array => exact hp ▸ hc ▸ h.cmd_array
  case rsp_fits => exact hp ▸ hr ▸ h.rsp_fits
  case sampler_fits => exact hp ▸ hs ▸ h.sampler_fits
  case adc_fits => exact hp ▸ hd ▸ h.adc_fits

/-! ## Byte arrays -/

/-- A byte array of `n` bytes with a length inside it (R29, R37). -/
def ByteBuf.Fits (buf : ByteBuf) (n : Nat) : Prop := buf.live.length ≤ n ∧ buf.capacity = n

theorem ByteBuf.Fits.clear {buf : ByteBuf} {n : Nat} (h : buf.Fits n) : buf.clear.Fits n :=
  ⟨Nat.zero_le n, buf.clear_capacity.trans h.2⟩

/-- A byte can be stored in an array that is not full. -/
theorem ByteBuf.Fits.push {buf : ByteBuf} {n : Nat} (h : buf.Fits n) (hroom : buf.live.length ≠ n)
    (b : Byte) : (buf.push b).Fits n := by
  obtain ⟨hfits, harray⟩ := h
  have hlt : buf.live.length < n := Nat.lt_of_le_of_ne hfits hroom
  refine ⟨?_, (buf.push_capacity b (harray.symm ▸ hlt)).trans harray⟩
  rw [ByteBuf.push_live, List.length_append]
  exact hlt

theorem ByteBuf.fits_ofCapacity (n : Nat) : (ByteBuf.ofCapacity n).Fits n :=
  ⟨Nat.zero_le n, by simp [ByteBuf.capacity, ByteBuf.ofCapacity]⟩

theorem StorageInv.tx {s : State} (h : StorageInv s) : s.tx.buf.Fits s.params.txbufCapacity :=
  ⟨h.tx_fits, h.tx_array⟩

theorem StorageInv.cmd {s : State} (h : StorageInv s) :
    s.session.cmdBuf.Fits s.params.cmdbufCapacity := ⟨h.cmd_fits, h.cmd_array⟩

/-! ## One rule per kind of storage -/

/-- A write of the arena. -/
theorem StorageInv.setArena {s : State} (h : StorageInv s) {m : Memory} (hsorted : Memory.wf m = true)
    (hinside : ∀ cell ∈ m, cell.1 < s.params.arenaCapacity) :
    StorageInv { s with arena := m } :=
  { h with arena_sorted := hsorted, arena_inside := hinside }

/-- A write of TX.buf. -/
theorem StorageInv.setTx {s : State} (h : StorageInv s) {buf : ByteBuf}
    (hbuf : buf.Fits s.params.txbufCapacity) : StorageInv { s with tx.buf := buf } :=
  { h with tx_fits := hbuf.1, tx_array := hbuf.2 }

/-- A write of the command buffer. -/
theorem StorageInv.setCmd {s : State} (h : StorageInv s) {buf : ByteBuf}
    (hbuf : buf.Fits s.params.cmdbufCapacity) : StorageInv { s with session.cmdBuf := buf } :=
  { h with cmd_fits := hbuf.1, cmd_array := hbuf.2 }

/-- A write of the response. -/
theorem StorageInv.setRsp {s : State} (h : StorageInv s) {r : List Byte}
    (hr : r.length ≤ s.params.rspCapacity) : StorageInv (setRsp s r) :=
  { h with rsp_fits := hr }

/-- A write of the two FIFOs. -/
theorem StorageInv.setFifos {s : State} (h : StorageInv s) {ws : List Word} {bs : List Byte}
    (hws : ws.length ≤ s.params.samplerFifoDepth) (hbs : bs.length ≤ s.params.adcFifoDepth) :
    StorageInv { s with sampler.fifo := ws, adc.fifo := bs } :=
  { h with sampler_fits := hws, adc_fits := hbs }

theorem StorageInv.takeInputs {s : State} (h : StorageInv s) : StorageInv (takeInputs s) := by
  rw [takeInputs_same s]
  exact h.congr rfl

/-- The positions of the sequencers and PORT.rx are no storage the invariant is about. -/
theorem StorageInv.setPositions {s : State} (h : StorageInv s) (a b : SeqPos) (rx : List Byte) :
    StorageInv { s with seqA := a, seqB := b, port.rx := rx } := h.congr rfl

theorem StorageInv.clearCmd {s : State} (h : StorageInv s) : StorageInv (clearCmd s) :=
  h.setCmd h.cmd.clear

/-! ## Responses and commands (R29, R134, R140) -/

/-- Well-formed parameters leave room for the identity string and the analog scale string (R10). -/
theorem wf_strings_fit {p : Params} (h : p.wf = true) :
    (identString p).length ≤ p.rspCapacity ∧ p.analogScaleStr.length ≤ p.rspCapacity := by
  simp only [Params.wf, Bool.and_eq_true, decide_eq_true_eq] at h
  obtain ⟨⟨⟨⟨⟨⟨⟨⟨⟨⟨⟨⟨-, hident⟩, hscale⟩, -⟩, -⟩, -⟩, -⟩, -⟩, -⟩, -⟩, -⟩, -⟩, -⟩ := h
  refine ⟨?_, hscale⟩
  rw [identString_eq, List.length_append]
  exact hident

theorem StorageInv.setRsp_nil {s : State} (h : StorageInv s) : StorageInv (Machine.setRsp s []) :=
  h.setRsp (Nat.zero_le _)

theorem StorageInv.setRsp_ident {s : State} (h : StorageInv s) :
    StorageInv (Machine.setRsp s (identString s.params)) := h.setRsp (wf_strings_fit h.params_ok).1

/-- The acknowledgement is no longer than the identity string. -/
theorem StorageInv.setRsp_ack {s : State} (h : StorageInv s) : StorageInv (Machine.setRsp s ackBytes) := by
  refine h.setRsp (Nat.le_trans ?_ (wf_strings_fit h.params_ok).1)
  rw [identString_eq, List.length_append]
  exact Nat.le_add_right_of_le (by decide)

theorem StorageInv.respond {s : State} (h : StorageInv s) : StorageInv (respond s) := by
  obtain ⟨-, e⟩ | ⟨-, e⟩ := respond_cases s <;> rw [e]
  · exact h
  · exact h.congr rfl

theorem startCapture_storage {s t : State} {cont : Bool} (hs : StorageInv s)
    (h : startCapture s cont = .next t) : StorageInv t := by
  obtain ⟨-, rfl⟩ := startCapture_next h
  obtain ⟨-, -, -, -, -, -, -, -, hcmd, -⟩ :=
    planSession_keeps s.params { s.session with continuous := cont }
  refine hs.setRsp_nil.congr ?_
  simp only [storageOf, hcmd]
  rfl

theorem execPlan_storage {s t : State} (hs : StorageInv s) (h : execPlan s = .next t) :
    StorageInv t := by
  obtain ⟨-, rfl⟩ := planOp_next.1 h
  obtain ⟨-, -, -, -, -, -, -, -, hcmd, hrsp, -⟩ := planSession_keeps s.params s.session
  refine hs.congr ?_
  simp only [storageOf, hcmd, hrsp]

/-- A command writes one register or the response, or starts a capture. -/
theorem runLineCommand_storage {i : Instr} {s t : State} (hs : StorageInv s)
    (h : runLineCommand i s = .next t) : StorageInv t := by
  cases i <;> simp only [runLineCommand] at h
  case ident => cases h; exact hs.setRsp_ident
  case ascale => cases h; exact hs.setRsp (wf_strings_fit hs.params_ok).2
  case reject => cases h; exact hs.setRsp_nil
  case fixed => exact startCapture_storage hs h
  case cont => exact startCapture_storage hs h
  case rate =>
    unfold execRate at h
    split at h
    · split at h <;> cases h
      · exact hs.congr rfl
      · exact hs
    · cases h
      exact hs
  case limit | aen | den =>
    simp only [execLimit, execAen, execDen] at h
    split at h
    · split at h <;> cases h
      · exact hs.congr rfl
      · exact hs.setRsp_nil
    · cases h
      exact hs.setRsp_nil
  all_goals
    cases h
    exact hs

theorem dispatchLine_storage {line : List Byte} {s t : State} (hs : StorageInv s)
    (h : dispatchLine line s = .next t) : StorageInv t := by
  cases line with
  | nil =>
    cases h
    exact hs
  | cons op args =>
    obtain ⟨u, hu, ht⟩ := andThen_eq_next.1 h
    cases ht
    exact (runLineCommand_storage hs.setRsp_ack hu).respond

theorem execParserStep_storage {c : Byte} {s t : State} (hs : StorageInv s)
    (h : execParserStep c s = .next t) : StorageInv t := by
  unfold execParserStep at h
  split at h
  · split at h
    · cases h
      exact hs
    · obtain ⟨u, hu, ht⟩ := andThen_eq_next.1 h
      cases ht
      exact (dispatchLine_storage hs hu).clearCmd
  · split at h <;> cases h
    next => exact hs.clearCmd
    next hroom => exact hs.setCmd (hs.cmd.push hroom c)

/-- A soft reset empties the two buffers, the response and the FIFOs, and keeps the arena (R362, R363). -/
theorem StorageInv.softResetOp {s : State} (h : StorageInv s) : StorageInv (softResetOp s) :=
  { h with
    tx_fits := h.tx.clear.1, tx_array := h.tx.clear.2
    cmd_fits := h.cmd.clear.1, cmd_array := h.cmd.clear.2
    rsp_fits := Nat.zero_le _, sampler_fits := Nat.zero_le _, adc_fits := Nat.zero_le _ }

theorem execRoute_storage {c : Byte} {s t : State} (hs : StorageInv s)
    (h : execRoute c s = .next t) : StorageInv t := by
  unfold execRoute at h
  split at h
  · cases h
    exact hs.softResetOp
  · split at h
    · split at h <;> cases h
      · exact hs.congr rfl
      · exact hs
    · exact execParserStep_storage hs h

/-! ## DMA (R197 to R199) -/

theorem StorageInv.setChan {s : State} (h : StorageInv s) (c : Chan) (v : DmaChan) :
    StorageInv (s.setChan c v) := h.congr rfl

theorem dmaTriggerOp_storage {s t : State} {c : Chan} (hs : StorageInv s)
    (h : dmaTriggerOp s c = .ok t) : StorageInv t := by
  obtain ⟨-, rfl⟩ | ⟨-, -, rfl⟩ := dmaTriggerOp_ok.1 h
  · exact hs
  · exact hs.setChan _ _

theorem dmaCompleteOp_storage {s t : State} {c : Chan} (hs : StorageInv s)
    (h : dmaCompleteOp s c = .ok t) : StorageInv t := by
  obtain ⟨-, rfl⟩ | ⟨-, h⟩ := dmaCompleteOp_ok.1 h
  · exact hs.setChan _ _
  · exact dmaTriggerOp_storage (hs.setChan _ _) h

theorem memWrite_storage {s t : State} {addr n : Nat} {v : Word} (hs : StorageInv s)
    (h : memWrite s addr n v = .ok t) : StorageInv t := by
  obtain ⟨hrange, -, rfl⟩ := memWrite_ok h
  exact hs.setArena (Memory.wf_writeBytes _ _ _ hs.arena_sorted)
    (writeBytes_inside _ _ _ _ (by rwa [leBytes_length]) hs.arena_inside)

/-- A pop leaves a FIFO no longer than it was. -/
theorem popSource_storage {s t : State} {c : Chan} {u : Word} (hs : StorageInv s)
    (h : popSource s c = some (u, t)) : StorageInv t := by
  obtain ⟨-, rest, hfifo, rfl⟩ | ⟨-, b, rest, hfifo, -, rfl⟩ := popSource_some h
  · have hlen := hs.sampler_fits
    rw [hfifo] at hlen
    exact hs.setFifos (Nat.le_of_succ_le hlen) hs.adc_fits
  · have hlen := hs.adc_fits
    rw [hfifo] at hlen
    exact hs.setFifos hs.sampler_fits (Nat.le_of_succ_le hlen)

theorem dmaXferOp_storage {s t : State} {c : Chan} (hs : StorageInv s)
    (h : dmaXferOp s c = .ok t) : StorageInv t := by
  obtain rfl | ⟨u, s1, s2, -, hpop, hwrite, ⟨-, rfl⟩ | ⟨-, hdone⟩⟩ := dmaXferOp_ok h
  · exact hs
  · exact (memWrite_storage (popSource_storage hs hpop) hwrite).setChan _ _
  · exact dmaCompleteOp_storage
      ((memWrite_storage (popSource_storage hs hpop) hwrite).setChan _ _) hdone

/-! ## ARM, CHECK_HALF and STOP -/

theorem armConfigure_storage {s t : State} (hs : StorageInv s) (h : armConfigure s = .next t) :
    StorageInv t := by
  have hcleared : StorageInv { s with tx.buf := s.tx.buf.clear } := hs.setTx hs.tx.clear
  obtain rfl | e := armConfigure_same h
  · exact hcleared.congr rfl
  · rw [e]
    exact (hcleared.setFifos (Nat.zero_le _) (Nat.zero_le _)).congr rfl

theorem armStart_storage {s : State} (hs : StorageInv s) : StorageInv (armStart s) := by
  rw [armStart_same]
  exact hs.congr rfl

theorem execArm_storage {st : ArmStep} {s t : State} (hs : StorageInv s)
    (h : execArm st s = .next t) : StorageInv t := by
  cases st with
  | configure => exact armConfigure_storage hs h
  | start =>
    cases h
    exact armStart_storage hs

theorem stopCapture_storage {s : State} (hs : StorageInv s) : StorageInv (stopCapture s) :=
  (hs.setFifos (ws := []) (bs := []) (Nat.zero_le _) (Nat.zero_le _)).congr rfl

theorem raiseOverrun_storage {s : State} (cause : OverrunCause) (hs : StorageInv s) :
    StorageInv (raiseOverrun s cause) := hs.congr rfl

theorem execCheckHalf_storage {st : CheckStep} {hf : Half} {s t : State} (hs : StorageInv s)
    (h : execCheckHalf st hf s = .next t) : StorageInv t := by
  cases st <;> simp only [execCheckHalf] at h
  case poll =>
    split at h <;> cases h
    · exact hs
    · exact hs.congr rfl
  case detach =>
    cases h
    rw [detachHalf_same]
    exact hs.congr rfl
  case restore =>
    obtain ⟨u, hu, h⟩ := withValue_eq_next.1 h
    cases h
    rw [restoreHalf_same hu]
    exact hs.congr rfl
  case rechain =>
    cases h
    rw [rechainHalf_same]
    exact hs.congr rfl
  case test =>
    split at h <;> cases h
    · exact raiseOverrun_storage _ hs
    · exact hs.congr rfl
  all_goals
    cases h
    exact hs.congr rfl

/-! ## Encoders and transmitter -/

theorem emitByte_storage {s t : State} {b : Byte} (hs : StorageInv s) (h : emitByte s b = .next t) :
    StorageInv t := by
  rw [emitByte_eq] at h
  split at h
  · cases h
  · split at h <;> cases h
    next => exact hs.congr rfl
    next hroom => exact (hs.setTx (hs.tx.push hroom b)).congr rfl

/-- Every operation that emits a byte is Emit of it. -/
theorem emission_storage {i : Instr} {n : Nat} {s t : State} (hn : emittedByte i = some n)
    (hs : StorageInv s) (h : exec i s = .next t) : StorageInv t :=
  emitByte_storage hs ((exec_of_emittedByte hn s).1 ▸ h)

theorem StorageInv.pushA {s : State} (h : StorageInv s) (ops : List Instr) :
    StorageInv (s.pushA ops) := h.congr rfl

theorem StorageInv.encodePart {s : State} (h : StorageInv s) (r : List Instr × Enc)
    (next : List Instr) : StorageInv (encodePart s r next) := h.congr rfl

/-- A part of an encoder that reads a unit of the half before it encodes. -/
theorem readEncode_storage {r : Except Fault Word} {part : Word → List Instr × Enc}
    {next : List Instr} {s t : State} (hs : StorageInv s)
    (h : withValue r (fun v => .next (encodePart s (part v) next)) = .next t) : StorageInv t := by
  obtain ⟨v, -, hv⟩ := withValue_eq_next.1 h
  cases hv
  exact hs.encodePart _ _

theorem execEncNibble_storage {pos : EncPos} {hf : Half} {s t : State} (hs : StorageInv s)
    (h : execEncNibble pos hf s = .next t) : StorageInv t := by
  cases pos <;> simp only [execEncNibble] at h
  case start =>
    split at h
    · cases h
      exact hs.pushA _
    · exact readEncode_storage hs h
  case index =>
    split at h
    · exact readEncode_storage hs h
    · cases h
      exact hs.pushA _
  case finish =>
    cases h
    exact hs.encodePart _ _

theorem encByte_storage {wd : Nat} {self : EncPos → Instr} {pos : EncPos} {hf : Half} {s t : State}
    (hs : StorageInv s) (h : encByte wd self pos hf s = .next t) : StorageInv t := by
  cases pos <;> simp only [encByte] at h
  case start =>
    split at h
    · cases h
      exact hs.pushA _
    · exact readEncode_storage hs h
  case index =>
    split at h
    · exact readEncode_storage hs h
    · cases h
      exact hs.pushA _
  case finish =>
    cases h
    exact hs.encodePart _ _

theorem execEncInterleave_storage {pos : EncPos} {hf : Half} {s t : State} (hs : StorageInv s)
    (h : execEncInterleave pos hf s = .next t) : StorageInv t := by
  cases pos <;> simp only [execEncInterleave] at h
  case index =>
    split at h
    · obtain ⟨ops, -, h⟩ := withValue_eq_next.1 h
      cases h
      exact hs.pushA _
    · cases h
      exact hs.pushA _
  all_goals
    cases h
    exact hs.pushA _

theorem execTxflush_storage {st : FlushStep} {s t : State} (hs : StorageInv s)
    (h : execTxflush st s = .next t) : StorageInv t := by
  cases st <;> simp only [execTxflush] at h
  case start =>
    split at h <;> cases h
    · exact hs
    · exact hs.pushA _
  case done =>
    cases h
    exact hs.setTx hs.tx.clear

theorem execThresholdFlush_storage {s t : State} (hs : StorageInv s)
    (h : execThresholdFlush s = .next t) : StorageInv t := by
  unfold execThresholdFlush at h
  split at h <;> cases h
  · exact hs.pushA _
  · exact hs

theorem StorageInv.push {s : State} (h : StorageInv s) (who : Sequencer) (ops : List Instr) :
    StorageInv (s.push who ops) := by
  cases who <;> exact h.congr rfl

theorem StorageInv.portWrite {s : State} (h : StorageInv s) (data : List Byte) (k : Nat)
    (counted : Bool) : StorageInv (portWrite s data k counted) := h.congr rfl

theorem StorageInv.sendIteration {s : State} (h : StorageInv s) (who : Sequencer)
    (data : List Byte) (counted : Bool) : StorageInv (sendIteration s who data counted) := by
  obtain ⟨k, -, -, -, ⟨-, e⟩ | ⟨-, e⟩⟩ | ⟨-, -, e⟩ | ⟨-, -, -, e⟩ :=
    sendIteration_cases s who data counted <;> rw [e]
  · exact h.portWrite _ _ _
  · exact (h.portWrite _ _ _).push _ _
  · exact h
  · exact h.push _ _

theorem execSend_storage {who : Sequencer} {st : SendStep} {data : List Byte} {counted : Bool}
    {s t : State} (hs : StorageInv s) (h : execSend who st data counted s = .next t) :
    StorageInv t := by
  cases st <;> simp only [execSend] at h
  case entry =>
    split at h
    · split at h <;> cases h
      · exact hs
      · exact hs.push _ _
    · cases h
      exact hs
  case loop =>
    split at h <;> cases h
    · exact hs
    · exact hs.sendIteration _ _ _

theorem execWindDownNormal_storage {st : NormalStep} {s t : State} (hs : StorageInv s)
    (h : execWindDownNormal st s = .next t) : StorageInv t := by
  cases st <;> cases h <;> exact hs.congr rfl

theorem execWindDownAborted_storage {st : AbortedStep} {s t : State} (hs : StorageInv s)
    (h : execWindDownAborted st s = .next t) : StorageInv t := by
  cases st <;> simp only [execWindDownAborted] at h
  case check =>
    split at h
    · split at h <;> cases h
      · exact hs.pushA _
      · exact hs
    · cases h
      exact hs.congr rfl
  case mark =>
    cases h
    exact hs.congr rfl

theorem execWake_storage {st : WakeStep} {s t : State} (hs : StorageInv s)
    (h : execWake st s = .next t) : StorageInv t := by
  cases st <;> simp only [execWake] at h
  case signal =>
    cases h
    exact hs.congr rfl
  case wait => split at h <;> cases h <;> exact hs.congr rfl

/-! ## Every operation, every step -/

/-- A line command run as an operation of its own. -/
theorem lineCommand_storage {i : Instr} {s t : State} (hi : exec i s = runLineCommand i s)
    (hs : StorageInv s) (h : exec i s = .next t) : StorageInv t :=
  runLineCommand_storage hs (hi ▸ h)

/-- Every operation keeps the storage invariant, whoever runs it. -/
theorem exec_storage {i : Instr} {s t : State} (hs : StorageInv s) (h : exec i s = .next t) :
    StorageInv t := by
  cases i with
  | reset | softReset =>
    cases h
    exact hs.softResetOp
  | ident | rate | limit | ascale | fixed | cont | aen | den | trig | pretrig | reject =>
    exact lineCommand_storage rfl hs h
  | abort | emptyLine | outMarker | outRecord | outAck | outIdent =>
    cases h
    exact hs.congr rfl
  | outTagged | outNrun | outGroup | outBrunDirect | outBrunStep | outAnalog | emit =>
    exact emission_storage rfl hs h
  | parserStep => exact execParserStep_storage hs h
  | dispatch st =>
    cases st with
    | line => exact dispatchLine_storage hs h
    | clear =>
      cases h
      exact hs.setRsp_nil
  | plan => exact execPlan_storage hs h
  | arm => exact execArm_storage hs h
  | dmaTrigger => exact dmaTriggerOp_storage hs (ofExcept_eq_next.1 h)
  | dmaXfer => exact dmaXferOp_storage hs (ofExcept_eq_next.1 h)
  | dmaComplete => exact dmaCompleteOp_storage hs (ofExcept_eq_next.1 h)
  | checkHalf => exact execCheckHalf_storage hs h
  | overrun =>
    cases h
    exact raiseOverrun_storage _ hs
  | encNibble => exact execEncNibble_storage hs h
  | encByte1 pos hf => exact encByte_storage (wd := 1) (self := fun q => .encByte1 q hf) hs h
  | encByte2 pos hf => exact encByte_storage (wd := 2) (self := fun q => .encByte2 q hf) hs h
  | encByte4 pos hf => exact encByte_storage (wd := 4) (self := fun q => .encByte4 q hf) hs h
  | encInterleave => exact execEncInterleave_storage hs h
  | txflush => exact execTxflush_storage hs h
  | thresholdFlush => exact execThresholdFlush_storage hs h
  | send => exact execSend_storage hs h
  | stop =>
    cases h
    exact stopCapture_storage hs
  | windDownNormal => exact execWindDownNormal_storage hs h
  | windDownAborted => exact execWindDownAborted_storage hs h
  | wake => exact execWake_storage hs h
  | route => exact execRoute_storage hs h

theorem samplerDeliver_storage {s : State} (w : Word) (hs : StorageInv s) :
    StorageInv (samplerDeliver s w) := by
  obtain ⟨-, e⟩ | ⟨-, hroom, e⟩ | ⟨-, -, e⟩ := samplerDeliver_cases s w <;> rw [e]
  · exact hs
  · refine hs.setFifos ?_ hs.adc_fits
    rw [List.length_append]
    exact hroom
  · exact hs.congr rfl

theorem adcDeliver_storage {s : State} (b : Byte) (hs : StorageInv s) :
    StorageInv (adcDeliver s b) := by
  obtain ⟨-, e⟩ | ⟨-, hroom, e⟩ | ⟨-, -, e⟩ := adcDeliver_cases s b <;> rw [e]
  · exact hs
  · refine hs.setFifos hs.sampler_fits ?_
    rw [List.length_append]
    exact hroom
  · exact hs.congr rfl

theorem stepA_storage {s t : State} (hs : StorageInv s) (h : StepA s t) : StorageInv t := by
  obtain ⟨-, hrun⟩ | ⟨-, rfl⟩ | ⟨-, -, hrun⟩ | ⟨-, rfl⟩ := h
  case work => exact exec_storage (hs.setPositions _ _ _) hrun
  case call => exact exec_storage (hs.setPositions _ _ _) hrun
  all_goals exact hs.congr rfl

theorem stepB_storage {s t : State} (hs : StorageInv s) (h : StepB s t) : StorageInv t := by
  obtain ⟨-, hrun⟩ | ⟨-, rfl⟩ | ⟨-, -, -, hrun⟩ | ⟨-, rfl⟩ := h
  case work => exact exec_storage (hs.setPositions _ _ _) hrun
  case poll => exact execRoute_storage (hs.setPositions _ _ _) hrun
  all_goals exact hs.congr rfl

/-- Settles O55: every agent's move keeps the storage invariant, the operations of the sequencers by
`exec_storage`. -/
theorem stepKeepsStorage : Obligations.StepKeepsStorage := by
  intro s t hs h
  have hu := hs.takeInputs
  cases moves_of_step h with
  | seqA _ move => exact stepA_storage hu move
  | seqB _ move => exact stepB_storage hu move
  | dma _ move => exact dmaXferOp_storage hu move
  | sampler _ next => exact next ▸ samplerDeliver_storage _ hu
  | adc _ next => exact next ▸ adcDeliver_storage _ hu
  | host _ next => exact next ▸ hu.congr rfl

end Sys2Proof.Machine
end

section
/-! PROOFS. Proofs/Writers.lean: what a step of each agent leaves alone, and that each sequencer gives itself
only operations of its own (spec/10_state.md rule R32; spec/20_memory.md rules R60, R75). -/

namespace Sys2Proof.Machine

/-! ## SEQ_A -/

/-- Everything a step of SEQ_A may change (R32): its own registers, flags, counters, channels, peripherals
and work list, the wake event and what goes out; its work list stays one of its own operations. -/
structure FrameA (s t : State) : Prop where
  same : t = { s with
    session.started := t.session.started
    session.sending := t.session.sending
    session.aborted := t.session.aborted
    session.samplesSentCount := t.session.samplesSentCount
    session.bytesSentCount := t.session.bytesSentCount
    session.armAckSeq := t.session.armAckSeq
    ctrlState := t.ctrlState
    curHalf := t.curHalf
    aIter := t.aIter
    dma := t.dma
    sampler := t.sampler
    adc := t.adc
    enc := t.enc
    tx := t.tx
    wakeEvt := t.wakeEvt
    port.wire := t.port.wire
    seqA := t.seqA
    encoded := t.encoded }
  own : (∀ i ∈ s.seqA.todo, opOfA i = true) → ∀ i ∈ t.seqA.todo, opOfA i = true

theorem FrameA.pushA (s : State) {ops : List Instr} (h : ∀ i ∈ ops, opOfA i = true) :
    FrameA s (s.pushA ops) := ⟨rfl, fun hs => List.forall_mem_append.2 ⟨h, hs⟩⟩

/-- A step from another position of SEQ_A, with operations of its own to do there. -/
theorem FrameA.of_seqA {s t : State} {q : SeqPos} (h : FrameA { s with seqA := q } t)
    (hq : (∀ i ∈ s.seqA.todo, opOfA i = true) → ∀ i ∈ q.todo, opOfA i = true) : FrameA s t :=
  ⟨h.same, fun hs => h.own (hq hs)⟩

theorem opOfA_of_isOutputWork {i : Instr} (h : isOutputWork i = true) : opOfA i = true :=
  (Bool.and_eq_true_iff.1 h).1

theorem OutputFrame.frameA {s t : State} (h : OutputFrame s t) : FrameA s t := by
  obtain ⟨ops, htodo, hops⟩ := h.work
  refine ⟨by rw [h.same], fun hs => ?_⟩
  rw [htodo]
  exact List.forall_mem_append.2 ⟨fun i hi => opOfA_of_isOutputWork (hops i hi), hs⟩

theorem execCheckHalf_frameA {st : CheckStep} {hf : Half} {s t : State}
    (h : execCheckHalf st hf s = .next t) : FrameA s t := by
  have own : ∀ st', ∀ i ∈ [Instr.checkHalf st' hf], opOfA i = true := by simp [opOfA]
  cases st <;> simp only [execCheckHalf] at h
  case poll =>
    split at h <;> cases h
    · exact ⟨rfl, id⟩
    · exact .pushA s (own _)
  case detach =>
    cases h
    rw [detachHalf_same]
    exact ⟨rfl, (FrameA.pushA s (own _)).own⟩
  case restore =>
    obtain ⟨u, hu, h⟩ := withValue_eq_next.1 h
    cases h
    rw [restoreHalf_same hu]
    exact ⟨rfl, (FrameA.pushA s (own _)).own⟩
  case encode =>
    cases h
    exact .pushA s (List.forall_mem_append.2
      ⟨fun i hi => opOfA_of_isOutputWork (encoderOf_work _ _ i hi), own _⟩)
  case account | target =>
    cases h
    exact ⟨rfl, (FrameA.pushA s (own _)).own⟩
  case test =>
    split at h <;> cases h
    · exact ⟨rfl, (FrameA.pushA s (ops := [.outMarker]) (by simp [opOfA])).own⟩
    · exact .pushA s (own _)
  case rechain =>
    cases h
    rw [rechainHalf_same]
    exact ⟨rfl, (FrameA.pushA s (own _)).own⟩
  case ready =>
    cases h
    exact ⟨rfl, id⟩

theorem execWindDownNormal_frameA {st : NormalStep} {s t : State}
    (h : execWindDownNormal st s = .next t) : FrameA s t := by
  cases st <;> cases h
  case flush | record => exact .pushA s (by simp [opOfA])
  case completed | finish => exact ⟨rfl, id⟩

theorem execWindDownAborted_frameA {st : AbortedStep} {s t : State}
    (h : execWindDownAborted st s = .next t) : FrameA s t := by
  cases st <;> simp only [execWindDownAborted] at h
  case check =>
    split at h
    · split at h <;> cases h
      · exact .pushA s (by simp [opOfA])
      · exact ⟨rfl, id⟩
    · cases h
      exact ⟨rfl, id⟩
  case mark =>
    cases h
    exact ⟨rfl, id⟩

/-- Every operation on SEQ_A's work list. -/
theorem exec_frameA {i : Instr} {s t : State} (hi : opOfA i = true) (h : exec i s = .next t) :
    FrameA s t := by
  cases hc : isControl i with
  | false => exact (exec_outputFrame (by simp [isOutputWork, hi, hc]) h).frameA
  | true =>
    cases i with
    | checkHalf => exact execCheckHalf_frameA h
    | windDownNormal => exact execWindDownNormal_frameA h
    | windDownAborted => exact execWindDownAborted_frameA h
    | _ => cases hc

theorem execArm_frameA {st : ArmStep} {s t : State} (h : execArm st s = .next t) : FrameA s t := by
  cases st with
  | configure =>
    obtain rfl | e := armConfigure_same h
    · exact ⟨rfl, id⟩
    · rw [e]
      exact ⟨rfl, id⟩
  | start =>
    cases h
    rw [armStart_same]
    exact ⟨rfl, id⟩

theorem stopCapture_frameA (s : State) : FrameA s (stopCapture s) := ⟨rfl, id⟩

theorem called_frameA {s u t : State} {i : Instr} {rest : List Instr} (hc : Called s i rest)
    (h : exec i u = .next t) : FrameA u t := by
  cases hc with
  | configure => exact execArm_frameA (st := .configure) h
  | start => exact execArm_frameA (st := .start) h
  | stop | abort =>
    cases h
    exact stopCapture_frameA u
  | check | flush => exact exec_frameA rfl h

theorem called_rest_own {s : State} {i : Instr} {rest : List Instr} (hc : Called s i rest) :
    ∀ j ∈ rest, opOfA j = true := by
  cases hc <;> simp [opOfA]

theorem stepA_frame {s t : State} (hs : OwnOps s) (h : StepA s t) : FrameA s t := by
  obtain ⟨htodo, hrun⟩ | ⟨-, rfl⟩ | ⟨-, hops, hrun⟩ | ⟨-, rfl⟩ := h
  case work i rest =>
    have own := hs.a_ops
    rw [htodo, List.forall_mem_cons] at own
    obtain ⟨hi, hrest⟩ := own
    exact (exec_frameA hi hrun).of_seqA fun _ => hrest
  case count =>
    refine ⟨rfl, fun _ => ?_⟩
    unfold beginIteration
    dsimp only
    split <;> simp [opOfA]
  case call =>
    have hc := called_of_iterationOps hops
    exact (called_frameA hc hrun).of_seqA fun _ => called_rest_own hc
  case pass => exact ⟨rfl, fun _ => by simp⟩

/-! ## SEQ_B -/

/-- Everything a step of SEQ_B but a RESET_CHAR may change (R32): its registers of the Session, `sending` and
`aborted` only towards false, its work list, the wake event and what comes in and goes out. -/
structure FrameB (s t : State) : Prop where
  same : t = { s with
    session := t.session
    tx.lastWriteUs := t.tx.lastWriteUs
    wakeEvt := t.wakeEvt
    port := t.port
    seqB := t.seqB }
  started : t.session.started = s.session.started
  ack : t.session.armAckSeq = s.session.armAckSeq
  samples : t.session.samplesSentCount = s.session.samplesSentCount
  bytes : t.session.bytesSentCount = s.session.bytesSentCount
  sending : t.session.sending = s.session.sending ∨ t.session.sending = false
  aborted : t.session.aborted = s.session.aborted ∨ t.session.aborted = false
  own : (∀ i ∈ s.seqB.todo, opOfB i = true) → ∀ i ∈ t.seqB.todo, opOfB i = true

theorem CommandFrame.frameB {s t : State} (h : CommandFrame s t) : FrameB s t := by
  obtain ⟨ops, htodo, hops⟩ := h.work
  refine ⟨by rw [h.same], h.started, h.ack, h.samples, h.bytes, h.sending, h.aborted, fun hs => ?_⟩
  rw [htodo]
  exact List.forall_mem_append.2 ⟨hops, hs⟩

theorem exec_frameB {i : Instr} {s t : State} (hi : opOfB i = true) (h : exec i s = .next t) :
    FrameB s t := by
  obtain ⟨e, ops, htodo, hops⟩ := opOfB_frame hi h
  have hsession : t.session = { s.session with rsp := t.session.rsp } := congrArg State.session e
  refine ⟨by rw [e], ?_, ?_, ?_, ?_, .inl ?_, .inl ?_, fun hs => ?own⟩
  case own =>
    rw [htodo]
    exact List.forall_mem_append.2 ⟨hops, hs⟩
  all_goals rw [hsession]

/-- A step from another position of SEQ_B, with operations of its own to do there. -/
theorem FrameB.of_seqB {s t : State} {q : SeqPos} {rx : List Byte}
    (h : FrameB { s with port.rx := rx, seqB := q } t)
    (hq : (∀ i ∈ s.seqB.todo, opOfB i = true) → ∀ i ∈ q.todo, opOfB i = true) : FrameB s t :=
  ⟨h.same, h.started, h.ack, h.samples, h.bytes, h.sending, h.aborted, fun hs => h.own (hq hs)⟩

theorem FrameB.setSeqB (s : State) {q : SeqPos} (hq : ∀ i ∈ q.todo, opOfB i = true) :
    FrameB s { s with seqB := q } :=
  ⟨rfl, rfl, rfl, rfl, rfl, .inl rfl, .inl rfl, fun _ => hq⟩

/-- SEQ_B polls PORT.rx and finds a RESET_CHAR there (70_reset_and_hazards.md rule R361). -/
def PollsReset (s : State) : Prop :=
  s.seqB.todo = [] ∧ (s.seqB.pos = .body ∨ captureActive s = false) ∧
    s.port.rx.head? = some Config.resetChar

theorem stepB_frame {s t : State} (hs : OwnOps s) (h : StepB s t) :
    FrameB s t ∨ (PollsReset s ∧ ∃ u, t = softResetOp u) := by
  obtain ⟨htodo, hrun⟩ | ⟨-, rfl⟩ | ⟨htodo, hpolls, hrx, hrun⟩ | ⟨-, rfl⟩ := h
  case work i rest =>
    have own := hs.b_ops
    rw [htodo, List.forall_mem_cons] at own
    obtain ⟨hi, hrest⟩ := own
    exact .inl ((exec_frameB hi hrun).of_seqB (q := ⟨s.seqB.pos, rest⟩) (rx := s.port.rx)
      fun _ => hrest)
  case wait => exact .inl (.setSeqB s (by simp [opOfB]))
  case poll c rest =>
    by_cases hc : c = Config.resetChar
    · subst hc
      cases hrun
      exact .inr ⟨⟨htodo, hpolls, by rw [hrx]; rfl⟩, _, rfl⟩
    · exact .inl ((execRoute_frame hc hrun).1.frameB.of_seqB fun _ => by simp)
  case none => exact .inl (.setSeqB s (by simp))

/-! ## The DMA channels -/

theorem dmaTriggerOp_same {s t : State} {c : Chan} (h : dmaTriggerOp s c = .ok t) :
    t = { s with dma := t.dma } := by
  obtain ⟨-, rfl⟩ | ⟨-, -, rfl⟩ := dmaTriggerOp_ok.1 h <;> rfl

theorem dmaCompleteOp_same {s t : State} {c : Chan} (h : dmaCompleteOp s c = .ok t) :
    t = { s with dma := t.dma } := by
  obtain ⟨-, rfl⟩ | ⟨-, h⟩ := dmaCompleteOp_ok.1 h
  · rfl
  · have e := dmaTriggerOp_same h
    exact e

theorem popSource_same {s t : State} {c : Chan} {u : Word} (h : popSource s c = some (u, t)) :
    t = { s with sampler.fifo := t.sampler.fifo, adc.fifo := t.adc.fifo } := by
  obtain ⟨-, rest, -, rfl⟩ | ⟨-, b, rest, -, -, rfl⟩ := popSource_some h <;> rfl

/-- A transfer writes channel registers, one FIFO and the arena only (R198). -/
theorem dmaXferOp_same {s t : State} {c : Chan} (h : dmaXferOp s c = .ok t) :
    t = { s with
      dma := t.dma, arena := t.arena
      sampler.fifo := t.sampler.fifo, adc.fifo := t.adc.fifo } := by
  obtain rfl | ⟨u, s1, s2, -, hpop, hwrite, hlast⟩ := dmaXferOp_ok h
  · rfl
  · obtain ⟨-, -, rfl⟩ := memWrite_ok hwrite
    obtain ⟨-, rfl⟩ | ⟨-, hdone⟩ := hlast
    · rw [popSource_same hpop]
      rfl
    · have e := dmaCompleteOp_same hdone
      rw [popSource_same hpop] at e
      rw [e]
      rfl

/-! ## Who writes what -/

theorem Moves.stepA {s t : State} (h : Moves s t) (ha : s.env.agent = .seqA) : StepA s t := by
  cases h with
  | seqA _ move => exact move
  | _ agent => cases ha.symm.trans agent

theorem Moves.stepB {s t : State} (h : Moves s t) (ha : s.env.agent = .seqB) : StepB s t := by
  cases h with
  | seqB _ move => exact move
  | _ agent => cases ha.symm.trans agent

theorem Moves.dmaXfer {s t : State} {c : Chan} (h : Moves s t) (ha : s.env.agent = .dma c) :
    dmaXferOp s c = .ok t := by
  cases h with
  | dma agent move =>
    cases ha.symm.trans agent
    exact move
  | _ agent => cases ha.symm.trans agent

theorem OwnOps.takeInputs {s : State} (h : OwnOps s) : OwnOps (takeInputs s) := by
  rw [takeInputs_same s]
  exact ⟨h.a_ops, h.b_ops⟩

/-- What SEQ_B finds when it polls does not depend on the inputs of the step. -/
theorem takesReset_of_pollsReset {s : State} (ha : (takeInputs s).env.agent = .seqB)
    (h : PollsReset (takeInputs s)) : takesReset s := by
  refine ⟨ha, ?_⟩
  rw [takeInputs_same s] at h
  exact h

/-- Settles O60: each clause reads off the frame of the agent that moves. -/
theorem writersOwnTheirState : Obligations.WritersOwnTheirState := by
  intro s t hs h
  have moves := moves_of_step h
  have own := hs.takeInputs
  have hu := takeInputs_same s
  refine ⟨fun ha => ?seqA, fun ha hr => ?seqB, fun c ha => ?dma⟩
  case seqA =>
    have e := (stepA_frame own (moves.stepA ha)).same
    rw [hu] at e
    rw [e]
    exact ⟨rfl, rfl, rfl, rfl, rfl, rfl, rfl⟩
  case seqB =>
    obtain frame | ⟨hreset, -⟩ := stepB_frame own (moves.stepB ha)
    · obtain ⟨e, hstarted, hack, hsamples, hbytes, hsending, haborted, -⟩ := frame
      rw [hu] at e hstarted hack hsamples hbytes hsending haborted
      refine ⟨hstarted, hack, hsamples, hbytes, ?_, ?_, ?_, ?_, ?_, ?_, ?_, ?_, ?_, ?_, ?_, hsending,
        haborted⟩
      all_goals rw [e]
    · exact absurd (takesReset_of_pollsReset ha hreset) hr
  case dma => exact dmaXferOp_same (moves.dmaXfer ha)

end Sys2Proof.Machine
end

section
/-! PROOFS. Proofs/CaptureFlags.lean: `ctrl_state`, the flags of a capture and the control operation in
progress agree after every step (spec/10_state.md rule R43; spec/47_scheduler.md rule R313). -/

namespace Sys2Proof.Machine

/-! ## Own operations -/

theorem samplerDeliver_same (s : State) (w : Word) :
    samplerDeliver s w = { s with sampler := (samplerDeliver s w).sampler } := by
  obtain ⟨-, e⟩ | ⟨-, -, e⟩ | ⟨-, -, e⟩ := samplerDeliver_cases s w <;> rw [e]

theorem adcDeliver_same (s : State) (b : Byte) :
    adcDeliver s b = { s with adc := (adcDeliver s b).adc } := by
  obtain ⟨-, e⟩ | ⟨-, -, e⟩ | ⟨-, -, e⟩ := adcDeliver_cases s b <;> rw [e]

/-- What a step of a channel, a peripheral or the host may change. -/
def FrameEnv (s t : State) : Prop :=
  t = { s with
    dma := t.dma, sampler := t.sampler, adc := t.adc, arena := t.arena, port := t.port }

/-- A step is one of SEQ_A, one of SEQ_B, or leaves both sequencers and the Session alone. -/
theorem Moves.cases_sequencer {s t : State} (h : Moves s t) :
    StepA s t ∨ StepB s t ∨ FrameEnv s t := by
  cases h with
  | seqA _ move => exact .inl move
  | seqB _ move => exact .inr (.inl move)
  | dma _ move =>
    refine .inr (.inr ?_)
    unfold FrameEnv
    rw [dmaXferOp_same move]
  | sampler _ next =>
    refine .inr (.inr ?_)
    rw [FrameEnv, next, samplerDeliver_same]
  | adc _ next =>
    refine .inr (.inr ?_)
    rw [FrameEnv, next, adcDeliver_same]
  | host _ next => exact .inr (.inr (by rw [next]; rfl))

/-- Every step keeps the work lists to the operations of their sequencers (R32; log 1). -/
theorem ownOps_of_moves {s t : State} (hs : OwnOps s) (h : Moves s t) : OwnOps t := by
  obtain move | move | e := h.cases_sequencer
  · obtain ⟨e, own⟩ := stepA_frame hs move
    exact ⟨own hs.a_ops, by rw [e]; exact hs.b_ops⟩
  · obtain frame | ⟨-, u, rfl⟩ := stepB_frame hs move
    · exact ⟨by rw [frame.same]; exact hs.a_ops, frame.own hs.b_ops⟩
    · exact ⟨by simp [softResetOp_positions], by simp [softResetOp_positions]⟩
  · unfold FrameEnv at e
    rw [e]
    exact ⟨hs.a_ops, hs.b_ops⟩

/-! ## The invariant by states of the controller -/

/-- What the flags are in each state of the controller (R43 (a), (b)). -/
def flagsFit (v : Session) : CtrlState → Prop
  | .idle => v.sending = false ∧ v.aborted = false
  | .armed | .capturing => v.started = true ∧ v.aborted = false
  | .completed => v.started = true ∧ v.sending = false ∧ v.aborted = false
  | .aborted => v.started = true ∧ v.sending = false

/-- In which state each control operation is in progress. -/
def controlFits (s : State) : Instr → Prop
  | .checkHalf _ _ => s.ctrlState = .capturing
  | .windDownNormal .completed =>
    (s.ctrlState = .armed ∨ s.ctrlState = .capturing) ∧ s.session.sending = false
  | .windDownNormal _ => s.ctrlState = .completed
  | .windDownAborted _ => s.ctrlState = .aborted
  | _ => True

/-- The control operations on SEQ_A's work list. -/
def controlOf (s : State) : List Instr := s.seqA.todo.filter isControl

/-- The capture-flag invariant but for whose operations the work lists hold. -/
structure CaptureFits (s : State) : Prop where
  flags : flagsFit s.session s.ctrlState
  one : (controlOf s).length ≤ 1
  fits : ∀ i ∈ controlOf s, controlFits s i

theorem flagsFit_iff (v : Session) (c : CtrlState) :
    flagsFit v c ↔
      (v.sending = true → v.started = true) ∧ (v.aborted = true → v.started = true) ∧
      (v.sending = true → c = .armed ∨ c = .capturing) ∧ (v.aborted = true → c = .aborted) ∧
      (c ≠ .idle → v.started = true) := by
  cases c <;> simp [flagsFit] <;> grind

theorem captureInv_iff (s : State) : CaptureInv s ↔ OwnOps s ∧ CaptureFits s := by
  constructor
  · intro h
    refine ⟨h.own, (flagsFit_iff _ _).2 ⟨h.sending_started, h.aborted_started, h.sending_ctrl,
      h.aborted_ctrl, h.busy_started⟩, h.one_control, fun i hi => ?_⟩
    obtain ⟨hmem, hcontrol⟩ := List.mem_filter.1 hi
    cases i with
    | checkHalf st hf => exact h.check_ctrl st hf hmem
    | windDownNormal st =>
      cases st with
      | completed => exact h.enter_ctrl hmem
      | flush | record | finish => exact h.normal_ctrl _ (by simp) hmem
    | windDownAborted st => exact h.aborted_wind st hmem
    | _ => cases hcontrol
  · rintro ⟨hown, hflags, hone, hfits⟩
    obtain ⟨hss, has, hsc, hac, hbs⟩ := (flagsFit_iff _ _).1 hflags
    have fits : ∀ i ∈ s.seqA.todo, isControl i = true → controlFits s i :=
      fun i hmem hcontrol => hfits i (List.mem_filter.2 ⟨hmem, hcontrol⟩)
    refine ⟨hown, hone, hss, has, hsc, hac, hbs, fun st hf hmem => fits _ hmem rfl,
      fun hmem => fits _ hmem rfl, fun st hst hmem => ?_, fun st hmem => fits _ hmem rfl⟩
    have hfit := fits _ hmem rfl
    cases st with
    | completed => exact absurd rfl hst
    | flush | record | finish => exact hfit

/-! ## Rules -/

theorem controlOf_pushA (s : State) (ops : List Instr) :
    controlOf (s.pushA ops) = ops.filter isControl ++ controlOf s :=
  List.filter_append ..

/-- With no control operation in progress only the flags matter. -/
theorem CaptureFits.of_none {s : State} (hflags : flagsFit s.session s.ctrlState)
    (hnone : controlOf s = []) : CaptureFits s :=
  ⟨hflags, by simp [hnone], by simp [hnone]⟩

theorem CaptureFits.of_single {s : State} {i : Instr} (hflags : flagsFit s.session s.ctrlState)
    (hsingle : controlOf s = [i]) (hfit : controlFits s i) : CaptureFits s :=
  ⟨hflags, by simp [hsingle], by simpa [hsingle] using hfit⟩

/-- A flag that only falls stays false. -/
theorem falls_false {old new : Bool} (h : new = old ∨ new = false) (hold : old = false) :
    new = false := h.elim (fun e => e.trans hold) id

/-- A step that leaves `started` and the controller alone and only clears the other two flags. -/
theorem CaptureFits.of_falls {s t : State} (h : CaptureFits s) (hctrl : t.ctrlState = s.ctrlState)
    (hcontrol : controlOf t = controlOf s) (hstarted : t.session.started = s.session.started)
    (hsending : t.session.sending = s.session.sending ∨ t.session.sending = false)
    (haborted : t.session.aborted = s.session.aborted ∨ t.session.aborted = false) :
    CaptureFits t := by
  obtain ⟨hflags, hone, hfits⟩ := h
  refine ⟨?flags, hcontrol ▸ hone, fun i hi => ?fits⟩
  case flags =>
    rw [hctrl]
    cases hc : s.ctrlState <;> rw [hc] at hflags
    case idle => exact ⟨falls_false hsending hflags.1, falls_false haborted hflags.2⟩
    case armed | capturing => exact ⟨hstarted.trans hflags.1, falls_false haborted hflags.2⟩
    case completed =>
      obtain ⟨hst, hse, hab⟩ := hflags
      exact ⟨hstarted.trans hst, falls_false hsending hse, falls_false haborted hab⟩
    case aborted => exact ⟨hstarted.trans hflags.1, falls_false hsending hflags.2⟩
  case fits =>
    have hfit := hfits i (hcontrol ▸ hi)
    cases i with
    | windDownNormal st =>
      cases st with
      | completed => exact ⟨hctrl ▸ hfit.1, falls_false hsending hfit.2⟩
      | flush | record | finish => exact hctrl.trans hfit
    | checkHalf | windDownAborted => exact hctrl.trans hfit
    | _ => trivial

/-- A step that writes no flag, no state of the controller and no control operation. -/
theorem CaptureFits.congr {s t : State} (h : CaptureFits s) (hctrl : t.ctrlState = s.ctrlState)
    (hcontrol : controlOf t = controlOf s) (hstarted : t.session.started = s.session.started)
    (hsending : t.session.sending = s.session.sending)
    (haborted : t.session.aborted = s.session.aborted) : CaptureFits t :=
  h.of_falls hctrl hcontrol hstarted (.inl hsending) (.inl haborted)

/-! ## Control operations -/

theorem filter_control_of_work {ops : List Instr} (h : ∀ i ∈ ops, isOutputWork i = true) :
    ops.filter isControl = [] := by
  refine List.filter_eq_nil_iff.2 fun i hi hc => ?_
  have hwork := h i hi
  simp [isOutputWork, hc] at hwork

/-- CHECK_HALF goes on to its next step with the flags as they were. -/
theorem CaptureFits.of_check {s : State} {st : CheckStep} {hf : Half} {ops : List Instr}
    (hctrl : s.ctrlState = .capturing) (hstarted : s.session.started = true)
    (haborted : s.session.aborted = false) (hnone : controlOf s = [])
    (hops : ops.filter isControl = [.checkHalf st hf]) : CaptureFits (s.pushA ops) := by
  refine .of_single (i := .checkHalf st hf) ?_ (by rw [controlOf_pushA, hops, hnone]; rfl) hctrl
  rw [State.pushA_ctrlState, hctrl]
  exact ⟨hstarted, haborted⟩

theorem execCheckHalf_fits {st : CheckStep} {hf : Half} {s t : State}
    (hctrl : s.ctrlState = .capturing) (hflags : flagsFit s.session s.ctrlState)
    (hnone : controlOf s = []) (h : execCheckHalf st hf s = .next t) : CaptureFits t := by
  have hflags' := hflags
  rw [hctrl] at hflags'
  obtain ⟨hstarted, haborted⟩ := hflags'
  cases st <;> simp only [execCheckHalf] at h
  case poll =>
    split at h <;> cases h
    · exact .of_none hflags hnone
    · exact .of_check hctrl hstarted haborted hnone rfl
  case detach =>
    cases h
    rw [detachHalf_same]
    exact .of_check hctrl hstarted haborted hnone rfl
  case restore =>
    obtain ⟨u, hu, h⟩ := withValue_eq_next.1 h
    cases h
    rw [restoreHalf_same hu]
    exact .of_check hctrl hstarted haborted hnone rfl
  case encode =>
    cases h
    refine .of_check (st := .account) (hf := hf) hctrl hstarted haborted hnone ?_
    rw [List.filter_append, filter_control_of_work (encoderOf_work _ _)]
    rfl
  case account | target =>
    cases h
    exact .of_check hctrl hstarted haborted hnone rfl
  case test =>
    split at h <;> cases h
    · exact .of_none ⟨hstarted, rfl⟩ hnone
    · exact .of_check hctrl hstarted haborted hnone rfl
  case rechain =>
    cases h
    rw [rechainHalf_same]
    exact .of_check hctrl hstarted haborted hnone rfl
  case ready =>
    cases h
    exact .of_none hflags hnone

theorem execWindDownNormal_fits {st : NormalStep} {s t : State}
    (hfit : controlFits s (.windDownNormal st)) (hflags : flagsFit s.session s.ctrlState)
    (hnone : controlOf s = []) (h : execWindDownNormal st s = .next t) : CaptureFits t := by
  cases st with
  | completed =>
    cases h
    obtain ⟨hctrl, hsending⟩ := hfit
    refine .of_none ?_ hnone
    obtain hc | hc := hctrl <;> rw [hc] at hflags <;> exact ⟨hflags.1, hsending, hflags.2⟩
  | flush =>
    cases h
    exact .of_single hflags (congrArg (Instr.windDownNormal .record :: ·) hnone) hfit
  | record =>
    cases h
    exact .of_single hflags (congrArg (Instr.windDownNormal .finish :: ·) hnone) hfit
  | finish =>
    cases h
    have hctrl : s.ctrlState = .completed := hfit
    rw [hctrl] at hflags
    obtain ⟨-, hsending, haborted⟩ := hflags
    exact .of_none ⟨hsending, haborted⟩ hnone

theorem execWindDownAborted_fits {st : AbortedStep} {s t : State}
    (hctrl : s.ctrlState = .aborted) (hflags : flagsFit s.session s.ctrlState)
    (hnone : controlOf s = []) (h : execWindDownAborted st s = .next t) : CaptureFits t := by
  cases st <;> simp only [execWindDownAborted] at h
  case check =>
    split at h
    next =>
      split at h <;> cases h
      · exact .of_single hflags (congrArg (Instr.windDownAborted .mark :: ·) hnone) hctrl
      · exact .of_none hflags hnone
    next haborted =>
      cases h
      rw [hctrl] at hflags
      exact .of_none ⟨hflags.2, Bool.eq_false_of_not_eq_true haborted⟩ hnone
  case mark =>
    cases h
    exact .of_none hflags hnone

theorem exec_control_fits {i : Instr} {s t : State} (hi : isControl i = true)
    (hfit : controlFits s i) (hflags : flagsFit s.session s.ctrlState) (hnone : controlOf s = [])
    (h : exec i s = .next t) : CaptureFits t := by
  cases i with
  | checkHalf => exact execCheckHalf_fits hfit hflags hnone h
  | windDownNormal => exact execWindDownNormal_fits hfit hflags hnone h
  | windDownAborted => exact execWindDownAborted_fits hfit hflags hnone h
  | _ => cases hi

/-! ## ARM and StopCapture -/

theorem armConfigure_fits {s t : State} (hnone : controlOf s = []) (h : armConfigure s = .next t) :
    CaptureFits t := by
  obtain rfl | e := armConfigure_same h
  · exact .of_none ⟨rfl, rfl, rfl⟩ hnone
  · rw [e]
    exact .of_none ⟨rfl, rfl⟩ hnone

theorem armStart_fits {s t : State} (hctrl : s.ctrlState = .armed)
    (hflags : flagsFit s.session s.ctrlState) (hnone : controlOf s = [])
    (h : execArm .start s = .next t) : CaptureFits t := by
  cases h
  rw [hctrl] at hflags
  rw [armStart_same]
  exact .of_none hflags hnone

/-- StopCapture writes peripherals and channels only (R220). -/
theorem execStop_fits {s t : State} (hs : CaptureFits s) (h : execStop s = .next t) :
    CaptureFits t := by
  cases h
  rw [stopCapture_eq]
  exact hs.congr rfl rfl rfl rfl rfl

/-! ## Steps -/

/-- A call from the `case ctrl_state` of an iteration, with nothing in progress. -/
theorem called_fits {s t : State} {i : Instr} {rest : List Instr} {pos : LoopPos}
    (hflags : flagsFit s.session s.ctrlState) (hc : Called s i rest)
    (h : exec i { s with seqA := ⟨pos, rest⟩ } = .next t) : CaptureFits t := by
  cases hc with
  | configure => exact armConfigure_fits rfl h
  | start ctrl => exact armStart_fits (s := { s with seqA := ⟨pos, []⟩ }) ctrl hflags rfl h
  | stop ctrl sending =>
    refine execStop_fits (s := { s with seqA := ⟨pos, _⟩ }) ?_ h
    exact .of_single (i := .windDownNormal .completed) hflags rfl ⟨ctrl, sending⟩
  | check ctrl =>
    exact execCheckHalf_fits (st := .poll) (hf := s.curHalf) (s := { s with seqA := ⟨pos, []⟩ })
      ctrl hflags rfl h
  | flush ctrl =>
    exact execWindDownNormal_fits (st := .flush) (s := { s with seqA := ⟨pos, []⟩ }) ctrl hflags rfl h
  | abort ctrl =>
    refine execStop_fits (s := { s with seqA := ⟨pos, _⟩ }) ?_ h
    exact .of_single (i := .windDownAborted .check) hflags rfl ctrl

/-- The head of the work list: an output operation, or the one control operation in progress. -/
theorem work_fits {s t : State} {i : Instr} {rest : List Instr} (hs : CaptureInv s)
    (htodo : s.seqA.todo = i :: rest) (h : exec i { s with seqA.todo := rest } = .next t) :
    CaptureFits t := by
  obtain ⟨hown, hfits⟩ := (captureInv_iff s).1 hs
  have hi : opOfA i = true := hown.a_ops i (by simp [htodo])
  cases hc : isControl i with
  | false =>
    have hcontrol : controlOf s = rest.filter isControl := by simp [controlOf, htodo, hc]
    obtain ⟨e, ops, hwork, hops⟩ := exec_outputFrame (by simp [isOutputWork, hi, hc]) h
    refine hfits.congr ?_ ?control ?_ ?_ ?_
    case control =>
      rw [controlOf, hwork, List.filter_append, filter_control_of_work hops, hcontrol]
      rfl
    all_goals rw [e]
  | true =>
    have hcontrol : controlOf s = i :: rest.filter isControl := by simp [controlOf, htodo, hc]
    have hnone : rest.filter isControl = [] := by simpa [hcontrol] using hfits.one
    have hfit : controlFits s i := hfits.fits i (by simp [hcontrol])
    exact exec_control_fits (s := { s with seqA.todo := rest }) hc hfit hfits.flags hnone h

theorem stepA_fits {s t : State} (hs : CaptureInv s) (h : StepA s t) : CaptureFits t := by
  have hflags := ((captureInv_iff s).1 hs).2.flags
  obtain ⟨htodo, hrun⟩ | ⟨-, rfl⟩ | ⟨-, hops, hrun⟩ | ⟨-, rfl⟩ := h
  case work => exact work_fits hs htodo hrun
  case count =>
    refine .of_none hflags ?_
    unfold beginIteration controlOf
    dsimp only
    split <;> rfl
  case call => exact called_fits hflags (called_of_iterationOps hops) hrun
  case pass => exact .of_none hflags rfl

theorem stepB_fits {s t : State} (hs : CaptureInv s) (h : StepB s t) : CaptureFits t := by
  obtain ⟨hown, hfits⟩ := (captureInv_iff s).1 hs
  obtain frame | ⟨-, u, rfl⟩ := stepB_frame hown h
  · exact hfits.of_falls (by rw [frame.same]) (by rw [frame.same]; rfl) frame.started frame.sending
      frame.aborted
  · exact .of_none ⟨rfl, rfl⟩ rfl

theorem frameEnv_fits {s t : State} (hs : CaptureFits s) (h : FrameEnv s t) : CaptureFits t := by
  unfold FrameEnv at h
  rw [h]
  exact hs.congr rfl rfl rfl rfl rfl

theorem CaptureInv.takeInputs {s : State} (h : CaptureInv s) : CaptureInv (takeInputs s) := by
  obtain ⟨hown, hfits⟩ := (captureInv_iff s).1 h
  refine (captureInv_iff _).2 ⟨hown.takeInputs, ?_⟩
  rw [takeInputs_same s]
  exact hfits.congr rfl rfl rfl rfl rfl

/-- Settles O56: SEQ_A moves between the states of the controller with the flags each of them asks for,
SEQ_B only clears flags or resets, and nobody else writes them. -/
theorem stepKeepsCaptureFlags : Obligations.StepKeepsCaptureFlags := by
  intro s t hs h
  have hu := hs.takeInputs
  have moves := moves_of_step h
  refine (captureInv_iff t).2 ⟨ownOps_of_moves hu.own moves, ?_⟩
  obtain move | move | frame := moves.cases_sequencer
  · exact stepA_fits hu move
  · exact stepB_fits hu move
  · exact frameEnv_fits ((captureInv_iff _).1 hu).2 frame

end Sys2Proof.Machine
end

section
/-! PROOFS. Proofs/ChannelPairs.lean: at most one channel of a pair is busy, chains stay inside their pairs, and
units stay (spec/10_state.md rule R33; spec/42_dma_capture.md rules R191, R218). -/

namespace Sys2Proof.Machine

/-! ## The invariant channel by channel -/

/-- The other channel of the pair (R33). -/
def peer : Chan → Chan
  | .d0 => .d1
  | .d1 => .d0
  | .a0 => .a1
  | .a1 => .a0

theorem peer_ne (c : Chan) : peer c ≠ c := by cases c <;> decide

@[simp] theorem peer_peer (c : Chan) : peer (peer c) = c := by cases c <;> rfl

@[simp] theorem isDigital_peer (c : Chan) : isDigital (peer c) = isDigital c := by cases c <;> rfl

/-- A pair holds the channel itself and its peer. -/
theorem eq_or_peer_of_isDigital_eq {c c' : Chan} (h : isDigital c' = isDigital c) :
    c' = c ∨ c' = peer c := by
  revert h
  cases c <;> cases c' <;> decide

/-- The channel-pair invariant on the channels. -/
structure PairsFit (d : DmaBank) : Prop where
  units : ∀ c, (d.get c).xfer = if isDigital c then .word else .byte
  chain : ∀ c, isDigital (d.get c).chainTo = isDigital c
  one : ∀ c, (d.get c).busy = true → (d.get (peer c)).busy = false

theorem pairInv_iff (s : State) : PairInv s ↔ OwnOps s ∧ PairsFit s.dma := by
  constructor
  · intro h
    have hd := h.digital_one
    have ha := h.analog_one
    refine ⟨h.own, h.units, h.chain_inside, fun c hb => ?_⟩
    simp only [State.chan, Bool.and_eq_false_iff] at hd ha
    cases c with
    | d0 => exact hd.resolve_left (by simp [hb])
    | d1 => exact hd.resolve_right (by simp [hb])
    | a0 => exact ha.resolve_left (by simp [hb])
    | a1 => exact ha.resolve_right (by simp [hb])
  · rintro ⟨hown, hunits, hchain, hone⟩
    have pair : ∀ c, ((s.chan c).busy && (s.chan (peer c)).busy) = false := by
      intro c
      cases hb : (s.chan c).busy
      · rfl
      · exact hone c hb
    exact ⟨hown, hunits, hchain, pair .d0, pair .a0⟩

/-! ## Writes of a channel -/

/-- The rule for a write of one channel's registers. -/
theorem PairsFit.set {d : DmaBank} (h : PairsFit d) {c : Chan} {v : DmaChan}
    (hunit : v.xfer = (d.get c).xfer) (hchain : isDigital v.chainTo = isDigital c)
    (hone : v.busy = true → (d.get (peer c)).busy = false) : PairsFit (d.set c v) := by
  refine ⟨fun c' => ?units, fun c' => ?chain, fun c' => ?one⟩
  case units =>
    rw [DmaBank.get_set]
    split
    next hc => rw [hc, hunit, h.units c]
    next => exact h.units c'
  case chain =>
    rw [DmaBank.get_set]
    split
    next hc => rw [hc, hchain]
    next => exact h.chain c'
  case one =>
    intro hb
    by_cases hc : c' = c
    · subst hc
      rw [DmaBank.get_set_self] at hb
      rw [DmaBank.get_set_of_ne _ _ _ _ (peer_ne c')]
      exact hone hb
    · rw [DmaBank.get_set_of_ne _ _ _ _ hc] at hb
      by_cases hp : peer c' = c
      · subst hp
        rw [DmaBank.get_set_self]
        refine Bool.eq_false_of_not_eq_true fun hv => ?_
        have hidle := hone hv
        rw [peer_peer, hb] at hidle
        cases hidle
      · rw [DmaBank.get_set_of_ne _ _ _ _ hp]
        exact h.one c' hb

/-- A write that leaves `busy`, the chain target and the unit of the channel. -/
theorem PairsFit.set_keep {d : DmaBank} (h : PairsFit d) {c : Chan} {v : DmaChan}
    (hunit : v.xfer = (d.get c).xfer) (hchain : v.chainTo = (d.get c).chainTo)
    (hbusy : v.busy = (d.get c).busy) : PairsFit (d.set c v) :=
  h.set hunit (hchain ▸ h.chain c) fun hb => h.one c (hbusy ▸ hb)

/-- A write that clears `busy` and leaves the chain target and the unit of the channel. -/
theorem PairsFit.set_idle {d : DmaBank} (h : PairsFit d) {c : Chan} {v : DmaChan}
    (hunit : v.xfer = (d.get c).xfer) (hchain : v.chainTo = (d.get c).chainTo)
    (hbusy : v.busy = false) : PairsFit (d.set c v) :=
  h.set hunit (hchain ▸ h.chain c) fun hb => absurd (hbusy.symm.trans hb) Bool.false_ne_true

/-! ## DMA operations -/

/-- A trigger while the peer is idle (R197). -/
theorem dmaTriggerOp_pairs {s t : State} {c : Chan} (hs : PairsFit s.dma)
    (hpeer : (s.dma.get (peer c)).busy = false) (h : dmaTriggerOp s c = .ok t) : PairsFit t.dma := by
  obtain ⟨-, rfl⟩ | ⟨-, -, rfl⟩ := dmaTriggerOp_ok.1 h
  · exact hs
  · exact hs.set rfl (hs.chain c) fun _ => hpeer

/-- A completion hands over to the peer or to nobody (R199, R200). -/
theorem dmaCompleteOp_pairs {s t : State} {c : Chan} (hs : PairsFit s.dma)
    (h : dmaCompleteOp s c = .ok t) : PairsFit t.dma := by
  have hidle : PairsFit (s.setChan c { s.chan c with busy := false }).dma :=
    hs.set_idle rfl rfl rfl
  obtain ⟨-, rfl⟩ | ⟨hne, htrigger⟩ := dmaCompleteOp_ok.1 h
  · exact hidle
  · have hpeer : (s.chan c).chainTo = peer c :=
      (eq_or_peer_of_isDigital_eq (hs.chain c)).resolve_left hne
    rw [hpeer] at htrigger
    refine dmaTriggerOp_pairs hidle ?_ htrigger
    rw [peer_peer, State.setChan_dma, DmaBank.get_set_self]

theorem dmaXferOp_pairs {s t : State} {c : Chan} (hs : PairsFit s.dma) (h : dmaXferOp s c = .ok t) :
    PairsFit t.dma := by
  obtain rfl | ⟨u, s1, s2, -, hpop, hwrite, hlast⟩ := dmaXferOp_ok h
  · exact hs
  · have hdma : s2.dma = s.dma := by
      obtain ⟨-, -, rfl⟩ := memWrite_ok hwrite
      rw [popSource_same hpop]
    have hnext : PairsFit (s2.setChan c
        { s.chan c with
          writeAddr := (s.chan c).writeAddr + BitVec.ofNat 32 (s.chan c).xfer.bytes
          count := (s.chan c).count - 1 }).dma := by
      rw [State.setChan_dma, hdma]
      exact hs.set_keep rfl rfl rfl
    obtain ⟨-, rfl⟩ | ⟨-, hdone⟩ := hlast
    · exact hnext
    · exact dmaCompleteOp_pairs hnext hdone

theorem dmaAbortOp_pairs {s : State} (c : Chan) (hs : PairsFit s.dma) :
    PairsFit (dmaAbortOp s c).dma := hs.set_idle rfl rfl rfl

theorem stopCapture_pairs {s : State} (hs : PairsFit s.dma) : PairsFit (stopCapture s).dma :=
  dmaAbortOp_pairs .a1 (dmaAbortOp_pairs .a0 (dmaAbortOp_pairs .d1 (dmaAbortOp_pairs .d0
    (s := adcStop (samplerStop s)) hs)))

theorem setChainTo_pairs {s : State} {c c' : Chan} (hs : PairsFit s.dma)
    (hpair : isDigital c' = isDigital c) : PairsFit (setChainTo s c c').dma :=
  hs.set rfl hpair (hs.one c)

theorem setWriteAddr_pairs {s t : State} {c : Chan} {addr : Word} (hs : PairsFit s.dma)
    (h : setWriteAddr s c addr = .ok t) : PairsFit t.dma := by
  obtain ⟨-, rfl⟩ := setWriteAddr_ok.1 h
  exact hs.set_keep rfl rfl rfl

/-! ## ARM and CHECK_HALF -/

/-- The configuration of a pair starts its half 0 with half 1 idle (R193). -/
theorem configurePair_pairs {s t : State} {c0 : Chan} {off0 off1 n : Word} (hs : PairsFit s.dma)
    (h : configurePair s c0 (peer c0) off0 off1 n = .ok t) : PairsFit t.dma := by
  have hne : peer c0 ≠ c0 := peer_ne c0
  obtain ⟨h0, h1, -, rfl⟩ := (configurePair_ok hne.symm).1 h
  have hstarted : PairsFit (s.dma.set c0
      { s.chan c0 with
        busy := true, writeAddr := off0, reload := n, chainTo := peer c0, count := n }) :=
    hs.set rfl (isDigital_peer c0) fun _ => h1
  refine hstarted.set ?_ rfl fun hb => ?_
  · rw [DmaBank.get_set_of_ne _ _ _ _ hne]
    rfl
  · exact absurd (h1.symm.trans hb) Bool.false_ne_true

theorem configureDigital_pairs {s t : State} (hs : PairsFit s.dma)
    (h : configureDigital s = .ok t) : PairsFit t.dma := by
  unfold configureDigital at h
  split at h
  · exact configurePair_pairs (c0 := .d0) hs h
  · cases h
    exact hs

theorem configureAnalog_pairs {s t : State} (hs : PairsFit s.dma)
    (h : configureAnalog s = .ok t) : PairsFit t.dma := by
  unfold configureAnalog at h
  split at h
  · exact configurePair_pairs (c0 := .a0) hs h
  · cases h
    exact hs

theorem execArm_pairs {st : ArmStep} {s t : State} (hs : PairsFit s.dma)
    (h : execArm st s = .next t) : PairsFit t.dma := by
  cases st with
  | configure =>
    obtain ⟨-, rfl⟩ | ⟨s2, s3, h2, h3, rfl⟩ := armConfigure_next h
    · exact hs
    · have hdigital := configureDigital_pairs (s := armPeripherals (armClear s)) hs h2
      have hanalog := configureAnalog_pairs hdigital h3
      exact hanalog
  | start =>
    cases h
    rw [armStart_same]
    exact hs

theorem isDigital_digChan (h : Half) : isDigital (digChan h) = true := by cases h <;> rfl

theorem isDigital_anaChan (h : Half) : isDigital (anaChan h) = false := by cases h <;> rfl

theorem detachHalf_pairs {s : State} (h : Half) (hs : PairsFit s.dma) :
    PairsFit (detachHalf s h).dma := by
  unfold detachHalf
  split <;> split
  · exact setChainTo_pairs (setChainTo_pairs hs rfl) rfl
  · exact setChainTo_pairs hs rfl
  · exact setChainTo_pairs hs rfl
  · exact hs

theorem rechainHalf_pairs {s : State} (h : Half) (hs : PairsFit s.dma) :
    PairsFit (rechainHalf s h).dma := by
  have hdig : isDigital (digChan h) = isDigital (digChan h.other) := by
    rw [isDigital_digChan, isDigital_digChan]
  have hana : isDigital (anaChan h) = isDigital (anaChan h.other) := by
    rw [isDigital_anaChan, isDigital_anaChan]
  unfold rechainHalf
  split <;> split
  · exact setChainTo_pairs (setChainTo_pairs hs hdig) hana
  · exact setChainTo_pairs hs hdig
  · exact setChainTo_pairs hs hana
  · exact hs

theorem restoreHalf_pairs {s t : State} {h : Half} (hs : PairsFit s.dma)
    (he : restoreHalf s h = .ok t) : PairsFit t.dma := by
  obtain ⟨s1, h1, h2⟩ := restoreHalf_ok.1 he
  have hmid : PairsFit s1.dma := by
    split at h1
    · exact setWriteAddr_pairs hs h1
    · cases h1
      exact hs
  split at h2
  · exact setWriteAddr_pairs hmid h2
  · cases h2
    exact hmid

theorem execCheckHalf_pairs {st : CheckStep} {hf : Half} {s t : State} (hs : PairsFit s.dma)
    (h : execCheckHalf st hf s = .next t) : PairsFit t.dma := by
  cases st <;> simp only [execCheckHalf] at h
  case detach =>
    cases h
    exact detachHalf_pairs hf hs
  case restore =>
    obtain ⟨u, hu, h⟩ := withValue_eq_next.1 h
    cases h
    have hrestored := restoreHalf_pairs hs hu
    exact hrestored
  case rechain =>
    cases h
    exact rechainHalf_pairs hf hs
  case poll | test => split at h <;> cases h <;> exact hs
  all_goals
    cases h
    exact hs

/-! ## Steps -/

theorem execWindDownAborted_pairs {st : AbortedStep} {s t : State} (hs : PairsFit s.dma)
    (h : execWindDownAborted st s = .next t) : PairsFit t.dma := by
  cases st <;> simp only [execWindDownAborted] at h
  case check =>
    split at h
    · split at h <;> cases h <;> exact hs
    · cases h
      exact hs
  case mark =>
    cases h
    exact hs

/-- Every operation on SEQ_A's work list. -/
theorem exec_pairs {i : Instr} {s t : State} (hi : opOfA i = true) (hs : PairsFit s.dma)
    (h : exec i s = .next t) : PairsFit t.dma := by
  cases hc : isControl i with
  | false =>
    rw [(exec_outputFrame (by simp [isOutputWork, hi, hc]) h).same]
    exact hs
  | true =>
    cases i with
    | checkHalf => exact execCheckHalf_pairs hs h
    | windDownNormal st => cases st <;> cases h <;> exact hs
    | windDownAborted => exact execWindDownAborted_pairs hs h
    | _ => cases hc

theorem called_pairs {s u t : State} {i : Instr} {rest : List Instr} (hc : Called s i rest)
    (hs : PairsFit u.dma) (h : exec i u = .next t) : PairsFit t.dma := by
  cases hc with
  | configure => exact execArm_pairs (st := .configure) hs h
  | start => exact execArm_pairs (st := .start) hs h
  | stop | abort =>
    cases h
    exact stopCapture_pairs hs
  | check | flush => exact exec_pairs rfl hs h

theorem stepA_pairs {s t : State} (hs : PairInv s) (h : StepA s t) : PairsFit t.dma := by
  obtain ⟨hown, hpairs⟩ := (pairInv_iff s).1 hs
  obtain ⟨htodo, hrun⟩ | ⟨-, rfl⟩ | ⟨-, hops, hrun⟩ | ⟨-, rfl⟩ := h
  case work i rest =>
    exact exec_pairs (s := { s with seqA.todo := rest }) (hown.a_ops i (by simp [htodo])) hpairs hrun
  case call i rest =>
    exact called_pairs (u := { s with seqA := ⟨.top, rest⟩ }) (called_of_iterationOps hops) hpairs hrun
  all_goals exact hpairs

/-- The channels after reset: none busy, each chained to itself (R42). -/
theorem reset_pairs : PairsFit DmaBank.reset := by
  constructor <;> intro c <;> cases c <;> decide

theorem stepB_pairs {s t : State} (hs : PairInv s) (h : StepB s t) : PairsFit t.dma := by
  obtain ⟨hown, hpairs⟩ := (pairInv_iff s).1 hs
  obtain frame | ⟨-, u, rfl⟩ := stepB_frame hown h
  · rw [frame.same]
    exact hpairs
  · exact reset_pairs

theorem PairInv.takeInputs {s : State} (h : PairInv s) : PairInv (takeInputs s) := by
  obtain ⟨hown, hpairs⟩ := (pairInv_iff s).1 h
  refine (pairInv_iff _).2 ⟨hown.takeInputs, ?_⟩
  rw [takeInputs_same s]
  exact hpairs

/-- Settles O57: a channel becomes busy only by ARM, with its peer idle, or when its peer completes. -/
theorem stepKeepsChannelPairs : Obligations.StepKeepsChannelPairs := by
  intro s t hs h
  have hu := hs.takeInputs
  have hpairs := ((pairInv_iff _).1 hu).2
  have moves := moves_of_step h
  refine (pairInv_iff t).2 ⟨ownOps_of_moves hu.own moves, ?_⟩
  cases moves with
  | seqA _ move => exact stepA_pairs hu move
  | seqB _ move => exact stepB_pairs hu move
  | dma _ move => exact dmaXferOp_pairs hpairs move
  | sampler _ next =>
    rw [next, samplerDeliver_same]
    exact hpairs
  | adc _ next =>
    rw [next, adcDeliver_same]
    exact hpairs
  | host _ next =>
    rw [next]
    exact hpairs

/-! ## Power-on reset (spec/70_reset_and_hazards.md rule R360) -/

theorem reset_storage {p : Params} (h : p.wf = true) : StorageInv (State.resetWith p) where
  params_ok := h
  arena_sorted := reset_arena_wf p
  arena_inside := by simp [State.resetWith]
  tx_fits := (ByteBuf.fits_ofCapacity _).1
  tx_array := (ByteBuf.fits_ofCapacity _).2
  cmd_fits := (ByteBuf.fits_ofCapacity _).1
  cmd_array := (ByteBuf.fits_ofCapacity _).2
  rsp_fits := Nat.zero_le _
  sampler_fits := Nat.zero_le _
  adc_fits := Nat.zero_le _

theorem reset_ownOps (p : Params) : OwnOps (State.resetWith p) :=
  ⟨by simp [State.resetWith], by simp [State.resetWith]⟩

/-- Settles O54: nothing is stored, nothing is in progress and no channel is busy. -/
theorem resetMeetsInvariants : Obligations.ResetMeetsInvariants := by
  intro p hp
  refine ⟨reset_storage hp, (captureInv_iff _).2 ⟨reset_ownOps p, ?_⟩,
    (pairInv_iff _).2 ⟨reset_ownOps p, reset_pairs⟩⟩
  exact .of_none ⟨rfl, rfl⟩ rfl

end Sys2Proof.Machine
end

section
/-! PROOFS. Proofs/Configuration.lean: the parameters never change, and while a capture is active only a
RESET_CHAR changes the configuration (spec/20_memory.md rule R73). -/

namespace Sys2Proof.Machine

/-! ## Routing and SEQ_B -/

/-- No character that SEQ_B routes changes the parameters, RESET_CHAR included (R317, R363). -/
theorem execRoute_params {c : Byte} {s t : State} (h : execRoute c s = .next t) :
    t.params = s.params := by
  by_cases hc : c = Config.resetChar
  · subst hc
    cases h
    rfl
  · rw [(execRoute_frame hc h).1.same]

theorem stepB_params {s t : State} (hs : OwnOps s) (h : StepB s t) : t.params = s.params := by
  obtain ⟨htodo, hrun⟩ | ⟨-, rfl⟩ | ⟨-, -, -, hrun⟩ | ⟨-, rfl⟩ := h
  case work i rest =>
    have hi : opOfB i = true := hs.b_ops i (by simp [htodo])
    rw [(exec_frameB hi hrun).same]
  case poll =>
    have e := execRoute_params hrun
    exact e
  case wait | none => rfl

/-- While a capture is active SEQ_B writes the response and the two flags of an abort, unless it takes a
RESET_CHAR (R317, R318). -/
theorem stepB_configuration {s t : State} (hs : OwnOps s) (h : StepB s t)
    (hactive : captureActive s = true) (hreset : ¬ PollsReset s) :
    configuration t.session = configuration s.session := by
  obtain ⟨htodo, hrun⟩ | ⟨-, rfl⟩ | ⟨htodo, hpolls, hrx, hrun⟩ | ⟨-, rfl⟩ := h
  case work i rest =>
    have hi : opOfB i = true := hs.b_ops i (by simp [htodo])
    rw [(opOfB_frame hi hrun).1]
    rfl
  case poll c rest =>
    have hc : c ≠ Config.resetChar := by
      rintro rfl
      exact hreset ⟨htodo, hpolls, by rw [hrx]; rfl⟩
    rw [(execRoute_frame hc hrun).2 hactive]
    rfl
  case wait | none => rfl

/-! ## All agents -/

/-- Only SEQ_B's polling of a RESET_CHAR, or a command while no capture is active, changes the
configuration; nothing changes the parameters. -/
theorem Moves.configuration_stable {s t : State} (hs : OwnOps s) (h : Moves s t) :
    t.params = s.params ∧
    (captureActive s = true → ¬ (s.env.agent = .seqB ∧ PollsReset s) →
      configuration t.session = configuration s.session) := by
  cases h with
  | seqA _ move =>
    rw [(stepA_frame hs move).same]
    exact ⟨rfl, fun _ _ => rfl⟩
  | seqB agent move =>
    exact ⟨stepB_params hs move, fun hactive hreset =>
      stepB_configuration hs move hactive fun hpolls => hreset ⟨agent, hpolls⟩⟩
  | dma _ move =>
    rw [dmaXferOp_same move]
    exact ⟨rfl, fun _ _ => rfl⟩
  | sampler _ next =>
    rw [next, samplerDeliver_same]
    exact ⟨rfl, fun _ _ => rfl⟩
  | adc _ next =>
    rw [next, adcDeliver_same]
    exact ⟨rfl, fun _ _ => rfl⟩
  | host _ next =>
    rw [next]
    exact ⟨rfl, fun _ _ => rfl⟩

/-- Settles O59: of the agents only SEQ_B writes the configuration, and during a capture it does so at a
RESET_CHAR only. -/
theorem configurationStableInCapture : Obligations.ConfigurationStableInCapture := by
  intro s t hs h
  obtain ⟨hparams, hconf⟩ := (moves_of_step h).configuration_stable hs.takeInputs
  have hsession : (takeInputs s).session = s.session := by rw [takeInputs_same]
  refine ⟨by rw [hparams, takeInputs_same], fun hactive hreset => ?_⟩
  rw [← hsession]
  refine hconf ?_ fun ⟨agent, hpolls⟩ => hreset (takesReset_of_pollsReset agent hpolls)
  rw [← hactive]
  exact captureActive_congr (by rw [hsession]) (by rw [hsession]) (by rw [hsession])

end Sys2Proof.Machine
end

section
/-! PROOFS. Proofs/Arena.lean: the reads of the arena, little-endian assembly, and the layout of the
digital samples (spec/20_memory.md rules R62, R63, R65). -/

namespace Sys2Proof.Machine

/-! ## Accesses of the arena (R65) -/

theorem checkAccess_of_range {s : State} {a n : Nat} (h : s.params.arenaCapacity < a + n) :
    checkAccess s a n = .error (.arenaRange a) := by
  rw [checkAccess_eq, if_neg (Nat.not_le.2 h)]

theorem checkAccess_of_align {s : State} {a n : Nat} (hr : a + n ≤ s.params.arenaCapacity)
    (ha : ¬ n ∣ a) : checkAccess s a n = .error (.arenaAlign a) := by
  rw [checkAccess_eq, if_pos hr, if_neg ha]

theorem memRead_of_check {s : State} {a n : Nat} {e : Fault} (h : checkAccess s a n = .error e) :
    memRead s a n = .error e := by
  simp only [memRead, h]

theorem memWrite_of_check {s : State} {a n : Nat} {e : Fault} (v : Word)
    (h : checkAccess s a n = .error e) : memWrite s a n v = .error e := by
  simp only [memWrite, h]

/-! ## Runs of reads (R64, R272) -/

/-- A run of reads stops at the first that faults. -/
theorem memReadRun_of_error {s : State} {a n j : Nat} {e : Fault} (hj : j < n)
    (hbefore : ∀ i, i < j → ∃ v, memRead s (a + i) 1 = .ok v)
    (hread : memRead s (a + j) 1 = .error e) : memReadRun s a n = .error e := by
  induction n generalizing a j with
  | zero => omega
  | succ n ih =>
    cases j with
    | zero =>
      have hfirst : memRead s a 1 = .error e := hread
      simp only [memReadRun, hfirst]
    | succ j =>
      obtain ⟨v, hv⟩ := hbefore 0 j.succ_pos
      have hfirst : memRead s a 1 = .ok v := hv
      have hrest : memReadRun s (a + 1) n = .error e := by
        refine ih (j := j) (by omega) (fun i hi => ?_) ?_
        · rw [Nat.add_right_comm]
          exact hbefore (i + 1) (by omega)
        · rw [Nat.add_right_comm]
          exact hread
      simp only [memReadRun, hfirst, hrest]

/-- A run of reads that all answer gives the values read. -/
theorem memReadRun_of_reads {s : State} {a : Nat} {vs : List Word}
    (h : ∀ j (hj : j < vs.length), memRead s (a + j) 1 = .ok vs[j]) :
    memReadRun s a vs.length = .ok vs := by
  induction vs generalizing a with
  | nil => rfl
  | cons v vs ih =>
    have hfirst : memRead s a 1 = .ok v := h 0 (by simp)
    have hrest : memReadRun s (a + 1) vs.length = .ok vs := by
      refine ih fun j hj => ?_
      rw [Nat.add_right_comm]
      exact h (j + 1) (by simpa using hj)
    simp only [List.length_cons, memReadRun, hfirst, hrest]

/-! ## Little-endian assembly (R62) -/

@[simp] theorem leWord_singleton (b : Byte) : leWord [b] = b.setWidth 32 := by
  simp [leWord]

/-- A byte before others stands below them: when the others assemble to `v`, all of them do to
`v ++ b`. -/
theorem leWord_cons_of_eq {n : Nat} {b : Byte} {bs : List Byte} {v : BitVec n}
    (h : leWord bs = v.setWidth 32) : leWord (b :: bs) = (v ++ b).setWidth 32 := by
  have hcons : leWord (b :: bs) = b.setWidth 32 ||| (leWord bs <<< 8) := rfl
  rw [hcons, h]
  ext i hi
  by_cases h8 : i < 8
  · simp [BitVec.getElem_setWidth, BitVec.getLsbD_append, h8]
  · simp [BitVec.getElem_setWidth, BitVec.getLsbD_append, h8, BitVec.getLsbD_of_ge b i (by omega)]

theorem leWord_pair (b0 b1 : Byte) : leWord [b0, b1] = (b1 ++ b0).setWidth 32 :=
  leWord_cons_of_eq (leWord_singleton b1)

theorem leWord_quad (b0 b1 b2 b3 : Byte) :
    leWord [b0, b1, b2, b3] = b3 ++ b2 ++ b1 ++ b0 := by
  rw [leWord_cons_of_eq (leWord_cons_of_eq (leWord_pair b2 b3)), BitVec.setWidth_eq]

/-! ## The layout of the digital samples (R63) -/

/-- Nibble `j` of a word, as a digital sample: the word shifted and masked. -/
theorem nib_setWidth (w : Word) (j : Nat) : (nib w j).setWidth 32 = (w >>> (4 * j)) &&& 0xF := by
  unfold nib
  have hfits : w.toNat >>> (4 * j) % 16 < 2 ^ 32 := by omega
  apply BitVec.eq_of_toNat_eq
  simpa [Nat.and_two_pow_sub_one_eq_mod _ 4] using hfits

theorem digSample_of_n1 {s : State} {h : Half} {k : Nat} {w : Word} (hdnps : s.session.dnps = .n1)
    (hread : memRead s ((s.session.digOff h).toNat + 4 * (k / 8)) 4 = .ok w) :
    digSample s h k = .ok ((w >>> (4 * (k % 8))) &&& 0xF) := by
  simp only [digSample, hdnps, hread, nib_setWidth]

/-- Settles O22: each read is the assembly of its bytes, and each width of sample has its own read. -/
theorem arenaReadsAndSampleLayout : Obligations.ArenaReadsAndSampleLayout := by
  intro s
  refine ⟨fun a hr => ?byte, fun a hr ha => ?half, fun a hr ha => ?word,
    fun h k => ⟨?n1, ?n2, ?n4, ?n8⟩⟩
  case byte =>
    rw [memRead_complete s a 1 hr (one_dvd a)]
    simp only [readBytes, leWord_singleton]
  case half =>
    rw [memRead_complete s a 2 hr ha]
    simp only [readBytes, leWord_pair]
  case word =>
    rw [memRead_complete s a 4 hr ha]
    simp only [readBytes, leWord_quad]
  case n1 => exact fun hdnps w => digSample_of_n1 hdnps
  case n2 | n4 | n8 =>
    intro hdnps
    simp only [digSample, hdnps]

end Sys2Proof.Machine
end

section
/-! PROOFS. Proofs/Interleave.lean: ENC_INTERLEAVE slice by slice (spec/45_interleave.md rule R272). -/

namespace Sys2Proof.Machine

/-! ## A slice (R272) -/

/-- A slice before the last reads its samples and queues what they give. -/
theorem encInterleave_index {s : State} {h : Half} {k : Nat} (hk : k < s.session.samplesPerHalf.toNat) :
    exec (.encInterleave (.index k) h) s =
      withValue (sliceOps s h k) fun ops =>
        .next (s.pushA (ops ++ [.encInterleave (.index (k + 1)) h])) := by
  simp only [exec, execEncInterleave, hk, if_true]

/-- After the last slice the loop ends. -/
theorem encInterleave_past {s : State} {h : Half} {k : Nat} (hk : s.session.samplesPerHalf.toNat ≤ k) :
    exec (.encInterleave (.index k) h) s = .next (s.pushA [.encInterleave .finish h]) := by
  simp only [exec, execEncInterleave, Nat.not_lt.2 hk, if_false]

theorem sliceDigital_of_sample {s : State} {h : Half} {k : Nat} {d : Word}
    (hd : digEn s = true → digSample s h k = .ok d) :
    sliceDigital s h k = .ok (if digEn s then some d else none) := by
  unfold sliceDigital
  cases hen : digEn s with
  | false => simp
  | true => simp [hd hen]

theorem sliceOps_of_samples {s : State} {h : Half} {k : Nat} {dig : Option Word} {ana : List Word}
    (hd : sliceDigital s h k = .ok dig) (ha : anaSamples s h k = .ok ana) :
    sliceOps s h k = .ok (sliceOut (groupCount s) dig ana) := by
  simp only [sliceOps, hd, ha]

/-- What a slice queues, spelt out: the group bytes, the analog bytes, the threshold flush. -/
theorem sliceOut_ite (t : Nat) (en : Bool) (d : Word) (ana : List Word) :
    sliceOut t (if en then some d else none) ana =
      (if en then groupOps t d else []) ++ (ana.map fun a => .outAnalog ((a >>> 1).setWidth 7))
        ++ [.thresholdFlush] := by
  cases en <;> rfl

/-- Settles O37: a slice queues what its samples give, and the other positions only hand on. -/
theorem interleaveEncoderParts : Obligations.InterleaveEncoderParts := by
  intro h s
  refine ⟨rfl, fun k d as hk hdig hlen hana => ?slice, fun k hk => ?last, rfl⟩
  case slice =>
    have hreads : anaSamples s h k = .ok as := by
      unfold anaSamples
      rw [← hlen] at hana ⊢
      exact memReadRun_of_reads hana
    rw [encInterleave_index hk, sliceOps_of_samples (sliceDigital_of_sample hdig) hreads,
      withValue_ok, sliceOut_ite]
    simp only [State.pushA, groupCount, List.append_assoc, List.cons_append, List.nil_append]
  case last => exact encInterleave_past hk

end Sys2Proof.Machine
end

section
/-! PROOFS. Proofs/ModelFaults.lean: each model fault stops the machine where it is made
(spec/60_exceptions.md rule R343). -/

namespace Sys2Proof.Machine

/-! ## Transfers (R198) -/

/-- A source FIFO that holds a unit gives one (R196). -/
theorem popSource_of_ready {s : State} {c : Chan} (hd : isDigital c = true → s.sampler.fifo ≠ [])
    (ha : isDigital c = false → s.adc.fifo ≠ []) : ∃ u s1, popSource s c = some (u, s1) := by
  cases c with
  | d0 | d1 =>
    obtain ⟨u, rest, hfifo⟩ := List.exists_cons_of_ne_nil (hd rfl)
    exact ⟨u, { s with sampler.fifo := rest }, by simp only [popSource, hfifo]⟩
  | a0 | a1 =>
    obtain ⟨b, rest, hfifo⟩ := List.exists_cons_of_ne_nil (ha rfl)
    exact ⟨b.setWidth 32, { s with adc.fifo := rest }, by simp only [popSource, hfifo]⟩

/-- A transfer whose access the arena does not admit stops with the fault of the access (R198). -/
theorem dmaXfer_of_check {s : State} {c : Chan} {e : Fault} (hbusy : (s.chan c).busy = true)
    (hd : isDigital c = true → s.sampler.fifo ≠ []) (ha : isDigital c = false → s.adc.fifo ≠ [])
    (h : checkAccess s (s.chan c).writeAddr.toNat (s.chan c).xfer.bytes = .error e) :
    exec (.dmaXfer c) s = .fault e := by
  obtain ⟨u, s1, hpop⟩ := popSource_of_ready hd ha
  have hparams : s1.params = s.params := by rw [popSource_same hpop]
  have hcheck : checkAccess s1 (s.chan c).writeAddr.toNat (s.chan c).xfer.bytes = .error e := by
    rw [← h, checkAccess_eq, checkAccess_eq, hparams]
  have hop : dmaXferOp s c = .error e := by
    simp only [dmaXferOp, hbusy, if_true, hpop, memWrite_of_check u hcheck]
  rw [exec, execDmaXfer, hop, ofExcept_error]

/-! ## Reads of the encoders (R232, R252, R272) -/

theorem encNibble_start_of_error {s : State} {h : Half} {e : Fault} (hseed : s.enc.seeded = false)
    (hread : memRead s (s.session.digOff h).toNat 4 = .error e) :
    exec (.encNibble .start h) s = .fault e := by
  simp only [exec, execEncNibble, hseed, hread, withValue_error, Bool.false_eq_true, if_false]

theorem encNibble_index_of_error {s : State} {h : Half} {i : Nat} {e : Fault}
    (hi : i < s.session.samplesPerHalf.toNat / 8)
    (hread : memRead s ((s.session.digOff h).toNat + 4 * i) 4 = .error e) :
    exec (.encNibble (.index i) h) s = .fault e := by
  simp only [exec, execEncNibble, hi, hread, withValue_error, if_true]

/-- The three rows of ENC_BYTE are one encoder at three widths (R259). -/
theorem exec_byteEncoder {wd : Nat} (hwd : wd = 1 ∨ wd = 2 ∨ wd = 4) (pos : EncPos) (h : Half)
    (s : State) :
    exec (byteEncoder wd pos h) s = encByte wd (fun q => byteEncoder wd q h) pos h s := by
  obtain rfl | rfl | rfl := hwd <;> rfl

theorem encByte_start_of_error {s : State} {h : Half} {wd : Nat} {self : EncPos → Instr} {e : Fault}
    (hseed : s.enc.seeded = false)
    (hread : memRead s (s.session.digOff h).toNat wd = .error e) :
    encByte wd self .start h s = .fault e := by
  simp only [encByte, hseed, hread, withValue_error, Bool.false_eq_true, if_false]

theorem encByte_index_of_error {s : State} {h : Half} {wd k : Nat} {self : EncPos → Instr} {e : Fault}
    (hk : k < s.session.samplesPerHalf.toNat)
    (hread : memRead s ((s.session.digOff h).toNat + k * wd) wd = .error e) :
    encByte wd self (.index k) h s = .fault e := by
  simp only [encByte, hk, hread, withValue_error, if_true]

/-! ## Slices of ENC_INTERLEAVE (R272) -/

theorem sliceOps_of_digital_error {s : State} {h : Half} {k : Nat} {e : Fault} (hen : digEn s = true)
    (hd : digSample s h k = .error e) : sliceOps s h k = .error e := by
  simp only [sliceOps, sliceDigital, hen, hd, if_true]

theorem sliceOps_of_analog_error {s : State} {h : Half} {k : Nat} {dig : Option Word} {e : Fault}
    (hd : sliceDigital s h k = .ok dig) (ha : anaSamples s h k = .error e) :
    sliceOps s h k = .error e := by
  simp only [sliceOps, hd, ha]

/-- The digital part of a slice answers when the digital sample, if there is one, can be read. -/
theorem sliceDigital_complete {s : State} {h : Half} {k : Nat}
    (hd : digEn s = true → ∃ d, digSample s h k = .ok d) : ∃ dig, sliceDigital s h k = .ok dig := by
  cases hen : digEn s with
  | false => exact ⟨none, by simp [sliceDigital, hen]⟩
  | true =>
    obtain ⟨d, hsample⟩ := hd hen
    exact ⟨some d, by simp [sliceDigital, hen, hsample]⟩

/-- A slice whose digital sample cannot be read stops with the fault of that read. -/
theorem encInterleave_of_digital_error {s : State} {h : Half} {k : Nat} {e : Fault}
    (hk : k < s.session.samplesPerHalf.toNat) (hen : digEn s = true)
    (hd : digSample s h k = .error e) : exec (.encInterleave (.index k) h) s = .fault e := by
  rw [encInterleave_index hk, sliceOps_of_digital_error hen hd, withValue_error]

/-- A slice whose digital sample is read stops at the first of its analog reads that faults. -/
theorem encInterleave_of_analog_error {s : State} {h : Half} {k j : Nat} {e : Fault}
    (hk : k < s.session.samplesPerHalf.toNat)
    (hd : digEn s = true → ∃ d, digSample s h k = .ok d) (hj : j < s.session.analogCount.toNat)
    (hbefore : ∀ i, i < j → ∃ v,
      memRead s ((s.session.anaOff h).toNat + k * s.session.analogCount.toNat + i) 1 = .ok v)
    (hread :
      memRead s ((s.session.anaOff h).toNat + k * s.session.analogCount.toNat + j) 1 = .error e) :
    exec (.encInterleave (.index k) h) s = .fault e := by
  obtain ⟨dig, hdig⟩ := sliceDigital_complete hd
  have hana : anaSamples s h k = .error e := memReadRun_of_error hj hbefore hread
  rw [encInterleave_index hk, sliceOps_of_analog_error hdig hana, withValue_error]

/-! ## Triggers and completions (R197, R199) -/

theorem dmaTriggerOp_of_zero {s : State} {c : Chan} (hb : (s.chan c).busy = false)
    (hr : (s.chan c).reload = 0) : dmaTriggerOp s c = .error (.dmaReloadZero c) := by
  simp [dmaTriggerOp, hb, hr]

/-- A completion triggers its chain target, and stops as that trigger does. -/
theorem dmaCompleteOp_of_zero {s : State} {c x : Chan} (hne : x ≠ c) (hchain : (s.chan x).chainTo = c)
    (hb : (s.chan c).busy = false) (hr : (s.chan c).reload = 0) :
    dmaCompleteOp s x = .error (.dmaReloadZero c) := by
  have hkeep : ∀ v, (s.setChan x v).chan c = s.chan c := fun v => by
    rw [State.chan_setChan, if_neg hne.symm]
  simp only [dmaCompleteOp, hchain, if_neg hne.symm]
  exact dmaTriggerOp_of_zero (by rw [hkeep, hb]) (by rw [hkeep, hr])

/-! ## ARM (R193) -/

theorem dmaConfigureOp_of_busy {s : State} {c t : Chan} (addr n : Word)
    (hb : (s.chan c).busy = true) : dmaConfigureOp s c addr n t = .error (.dmaConfigureBusy c) := by
  simp [dmaConfigureOp, hb]

/-- The three ways in which the configuration and start of a pair stop, in the order of its steps. -/
theorem configurePair_faults {c0 c1 : Chan} (hne : c0 ≠ c1) (s : State) (off0 off1 n : Word) :
    ((s.chan c0).busy = true →
      configurePair s c0 c1 off0 off1 n = .error (.dmaConfigureBusy c0)) ∧
    ((s.chan c0).busy = false → (s.chan c1).busy = true →
      configurePair s c0 c1 off0 off1 n = .error (.dmaConfigureBusy c1)) ∧
    ((s.chan c0).busy = false → (s.chan c1).busy = false → n = 0 →
      configurePair s c0 c1 off0 off1 n = .error (.dmaReloadZero c0)) := by
  refine ⟨fun h0 => ?first, fun h0 h1 => ?second, fun h0 h1 hn => ?zero⟩
  case first => simp only [configurePair, dmaConfigureOp_of_busy _ _ h0]
  case second =>
    simp only [configurePair, dmaConfigureOp_ok.2 ⟨h0, rfl⟩]
    rw [dmaConfigureOp_of_busy]
    rw [State.chan_setChan, if_neg hne.symm, h1]
  case zero =>
    subst hn
    simp only [configurePair, dmaConfigureOp_ok.2 ⟨h0, rfl⟩]
    rw [dmaConfigureOp_ok.2 ⟨by rw [State.chan_setChan, if_neg hne.symm, h1], rfl⟩]
    apply dmaTriggerOp_of_zero <;> simp [State.chan_setChan, hne, h0]

theorem configureDigital_of_enabled {s : State} (hen : digEn s = true) :
    configureDigital s = configurePair s .d0 .d1 s.session.digHalf0Off s.session.digHalf1Off
      (s.session.digHalfSize / 4) := by
  rw [configureDigital, if_pos hen]

theorem configureAnalog_of_enabled {s : State} (hen : anaEn s = true) :
    configureAnalog s = configurePair s .a0 .a1 s.session.anaHalf0Off s.session.anaHalf1Off
      s.session.anaHalfSize := by
  rw [configureAnalog, if_pos hen]

/-- The digital part of ARM completes when its pair, if enabled, is idle and has transfers to make; the
analog pair stays as it is. -/
theorem configureDigital_complete {s : State}
    (hok : digEn s = true →
      (s.chan .d0).busy = false ∧ (s.chan .d1).busy = false ∧ s.session.digHalfSize / 4 ≠ 0) :
    ∃ t, configureDigital s = .ok t ∧ t.session = s.session ∧ t.chan .a0 = s.chan .a0 ∧
      t.chan .a1 = s.chan .a1 := by
  cases hen : digEn s with
  | false => exact ⟨s, by simp [configureDigital, hen], rfl, rfl, rfl⟩
  | true =>
    obtain ⟨h0, h1, hn⟩ := hok hen
    rw [configureDigital_of_enabled hen]
    exact ⟨_, (configurePair_ok (by decide)).2 ⟨h0, h1, hn, rfl⟩, rfl, rfl, rfl⟩

/-- ARM of an enabled kind stops when the configuration of the digital pair does. -/
theorem arm_of_digital_error {s : State} {e : Fault} (hv : s.session.variant ≠ .none)
    (hd : configureDigital (armPeripherals (armClear s)) = .error e) :
    exec (.arm .configure) s = .fault e := by
  simp only [exec, execArm, armConfigure, if_neg hv, hd, withValue_error]

/-- It stops too when, after that, the configuration of the analog pair does. -/
theorem arm_of_analog_error {s u : State} {e : Fault} (hv : s.session.variant ≠ .none)
    (hd : configureDigital (armPeripherals (armClear s)) = .ok u)
    (ha : configureAnalog u = .error e) : exec (.arm .configure) s = .fault e := by
  simp only [exec, execArm, armConfigure, if_neg hv, hd, ha, withValue_ok, withValue_error]

/-- The faults of ARM on the digital pair. -/
theorem arm_digital_faults {s : State} (hv : s.session.variant ≠ .none) (hen : digEn s = true) :
    ((s.chan .d0).busy = true → exec (.arm .configure) s = .fault (.dmaConfigureBusy .d0)) ∧
    ((s.chan .d0).busy = false → (s.chan .d1).busy = true →
      exec (.arm .configure) s = .fault (.dmaConfigureBusy .d1)) ∧
    ((s.chan .d0).busy = false → (s.chan .d1).busy = false → s.session.digHalfSize / 4 = 0 →
      exec (.arm .configure) s = .fault (.dmaReloadZero .d0)) := by
  have hpair := configureDigital_of_enabled (s := armPeripherals (armClear s)) hen
  obtain ⟨hfirst, hsecond, hzero⟩ := configurePair_faults (c0 := .d0) (c1 := .d1) (by decide)
    (armPeripherals (armClear s)) s.session.digHalf0Off s.session.digHalf1Off
    (s.session.digHalfSize / 4)
  exact ⟨fun h0 => arm_of_digital_error hv (hpair.trans (hfirst h0)),
    fun h0 h1 => arm_of_digital_error hv (hpair.trans (hsecond h0 h1)),
    fun h0 h1 hn => arm_of_digital_error hv (hpair.trans (hzero h0 h1 hn))⟩

/-- The faults of ARM on the analog pair, once the digital pair has been configured. -/
theorem arm_analog_faults {s : State} (hv : s.session.variant ≠ .none)
    (hdig : digEn s = true →
      (s.chan .d0).busy = false ∧ (s.chan .d1).busy = false ∧ s.session.digHalfSize / 4 ≠ 0)
    (hen : anaEn s = true) :
    ((s.chan .a0).busy = true → exec (.arm .configure) s = .fault (.dmaConfigureBusy .a0)) ∧
    ((s.chan .a0).busy = false → (s.chan .a1).busy = true →
      exec (.arm .configure) s = .fault (.dmaConfigureBusy .a1)) ∧
    ((s.chan .a0).busy = false → (s.chan .a1).busy = false → s.session.anaHalfSize = 0 →
      exec (.arm .configure) s = .fault (.dmaReloadZero .a0)) := by
  obtain ⟨u, hu, hsession, ha0, ha1⟩ :=
    configureDigital_complete (s := armPeripherals (armClear s)) hdig
  have hpair := configureAnalog_of_enabled (s := u) (by rw [anaEn, hsession]; exact hen)
  obtain ⟨hfirst, hsecond, hzero⟩ := configurePair_faults (c0 := .a0) (c1 := .a1) (by decide)
    u u.session.anaHalf0Off u.session.anaHalf1Off u.session.anaHalfSize
  rw [ha0] at hfirst hsecond hzero
  rw [ha1] at hsecond hzero
  exact ⟨fun h0 => arm_of_analog_error hv hu (hpair.trans (hfirst h0)),
    fun h0 h1 => arm_of_analog_error hv hu (hpair.trans (hsecond h0 h1)),
    fun h0 h1 hn => arm_of_analog_error hv hu (hpair.trans (hzero h0 h1 (by rw [hsession]; exact hn)))⟩

/-! ## Step 3b (R209; U21) -/

theorem setWriteAddr_of_busy {s : State} {c : Chan} (addr : Word) (hb : (s.chan c).busy = true) :
    setWriteAddr s c addr = .error (.dmaAddrBusy c) := by
  simp [setWriteAddr, hb]

theorem restore_of_digital_busy {s : State} {h : Half} (hen : digEn s = true)
    (hb : (s.chan (digChan h)).busy = true) :
    exec (.checkHalf .restore h) s = .fault (.dmaAddrBusy (digChan h)) := by
  simp only [exec, execCheckHalf, restoreHalf, hen, if_true, setWriteAddr_of_busy _ hb, withValue_error]

theorem anaChan_ne_digChan (h : Half) : anaChan h ≠ digChan h := by cases h <;> decide

/-- The digital part of step 3b completes on an idle channel, and leaves the analog channel alone. -/
theorem restoreDigital_complete {s : State} {h : Half}
    (hidle : digEn s = true → (s.chan (digChan h)).busy = false) :
    ∃ t, (if digEn s then setWriteAddr s (digChan h) (s.session.digOff h) else .ok s) = .ok t ∧
      t.chan (anaChan h) = s.chan (anaChan h) := by
  cases hen : digEn s with
  | false => exact ⟨s, rfl, rfl⟩
  | true =>
    refine ⟨_, setWriteAddr_ok.2 ⟨hidle hen, rfl⟩, ?_⟩
    rw [State.chan_setChan, if_neg (anaChan_ne_digChan h)]

theorem restore_of_analog_busy {s : State} {h : Half}
    (hidle : digEn s = true → (s.chan (digChan h)).busy = false) (hen : anaEn s = true)
    (hb : (s.chan (anaChan h)).busy = true) :
    exec (.checkHalf .restore h) s = .fault (.dmaAddrBusy (anaChan h)) := by
  obtain ⟨t, ht, hkeep⟩ := restoreDigital_complete hidle
  have hbt : (t.chan (anaChan h)).busy = true := by rw [hkeep, hb]
  simp only [exec, execCheckHalf, restoreHalf, ht, hen, if_true, setWriteAddr_of_busy _ hbt,
    withValue_error]

/-! ## Emit (R288) -/

theorem exec_of_reserved {i : Instr} {n : Nat} (s : State) (hi : emittedByte i = some n)
    (hn : n < 0x30) : exec i s = .fault (.emitReserved (BitVec.ofNat 8 n)) := by
  obtain ⟨hexec, hlt⟩ := exec_of_emittedByte hi s
  rw [hexec, emitByte_eq, if_pos]
  rwa [BitVec.toNat_ofNat, Nat.mod_eq_of_lt hlt]

/-- Settles O23: one lemma for each operation that can stop. -/
theorem modelFaultsStop : Obligations.ModelFaultsStop := by
  intro s
  refine ⟨fun a n v hr => ?range, fun a n v hr ha => ?align, fun c hb hd ha => ?transfer,
    fun h e => ⟨?nibbleSeed, fun i hi hread => ?nibbleWord, fun wd hwd => ?bytes,
      fun k hk => ⟨?digital, ?analog⟩⟩,
    fun c hb hr => ?reload, fun hv => ⟨?armDigital, ?armAnalog⟩, fun h => ⟨?digAddr, ?anaAddr⟩,
    fun i n hi hn => ?emit⟩
  case range =>
    have hcheck := checkAccess_of_range hr
    exact ⟨memRead_of_check hcheck, memWrite_of_check v hcheck⟩
  case align =>
    have hcheck := checkAccess_of_align hr ha
    exact ⟨memRead_of_check hcheck, memWrite_of_check v hcheck⟩
  case transfer =>
    exact ⟨fun hrange => dmaXfer_of_check hb hd ha (checkAccess_of_range hrange),
      fun hrange halign => dmaXfer_of_check hb hd ha (checkAccess_of_align hrange halign)⟩
  case nibbleSeed => exact encNibble_start_of_error
  case nibbleWord => exact encNibble_index_of_error hi hread
  case bytes =>
    simp only [exec_byteEncoder hwd]
    exact ⟨encByte_start_of_error, fun k => encByte_index_of_error⟩
  case digital => exact encInterleave_of_digital_error hk
  case analog => exact fun j => encInterleave_of_analog_error hk
  case reload =>
    refine ⟨?_, fun x hne hchain => ?_⟩
    · rw [exec, execDmaTrigger, dmaTriggerOp_of_zero hb hr, ofExcept_error]
    · rw [exec, execDmaComplete, dmaCompleteOp_of_zero hne hchain hb hr, ofExcept_error]
  case armDigital => exact arm_digital_faults hv
  case armAnalog => exact arm_analog_faults hv
  case digAddr => exact restore_of_digital_busy
  case anaAddr => exact restore_of_analog_busy
  case emit => exact exec_of_reserved s hi hn

end Sys2Proof.Machine
end

section
/-! PROOFS. Proofs/CommandCoding.lean: decimal numbers and the enable operands (spec/30_encoding.md rules R94,
R95), the command side of the encoding (rules R90 to R93, R96), and a line in the parser
(spec/40_commands.md rules R131 to R146). -/

namespace Sys2Proof.Machine

/-! ## Decimal numbers (R94) -/

theorem isDigit_iff (c : Byte) : isDigit c = true ↔ 0x30 ≤ c.toNat ∧ c.toNat ≤ 0x39 := by
  simp [isDigit]

theorem digitOf_toNat {d : Nat} (h : d < 10) : (digitOf d).toNat = 0x30 + d := by
  rw [digitOf, BitVec.toNat_ofNat]
  omega

theorem isDigit_digitOf {d : Nat} (h : d < 10) : isDigit (digitOf d) = true := by
  rw [isDigit_iff, digitOf_toNat h]
  omega

theorem digitValue_digitOf {d : Nat} (h : d < 10) : digitValue (digitOf d) = d := by
  rw [digitValue, digitOf_toNat h, Nat.add_sub_cancel_left]

/-- `ParseDec` is Horner's scheme, most significant digit first. -/
theorem parseDec_digits {ds : List Nat} (hne : ds ≠ []) (hlt : ∀ d ∈ ds, d < 10) :
    parseDec (ds.map digitOf) = some (Nat.ofDigits 10 ds.reverse) := by
  have hall : (ds.map digitOf).all isDigit = true := by
    simpa using fun d hd => isDigit_digitOf (hlt d hd)
  have hvalue : (ds.map digitOf).foldl (fun v c => v * 10 + digitValue c) 0
      = Nat.ofDigits 10 ds.reverse := by
    rw [Nat.ofDigits_eq_foldr, List.foldr_reverse, List.foldl_map]
    refine List.foldl_ext _ _ _ fun v d hd => ?_
    rw [digitValue_digitOf (hlt d hd), Nat.mul_comm, Nat.add_comm]
    rfl
  simp [parseDec, hne, hall, hvalue]

theorem parseDec_of_nondigit {s : List Byte} (h : ∃ c ∈ s, c.toNat < 0x30 ∨ 0x39 < c.toNat) :
    parseDec s = none := by
  obtain ⟨c, hc, hbad⟩ := h
  have hall : ¬ s.all isDigit = true := fun hall => by
    obtain ⟨hlo, hhi⟩ := (isDigit_iff c).1 (List.all_eq_true.1 hall c hc)
    omega
  simp [parseDec, hall]

theorem all_isDigit_of_parseDec {s : List Byte} {n : Nat} (h : parseDec s = some n) :
    s.all isDigit = true := by
  by_contra hall
  simp [parseDec, hall] at h

/-- Settles O1: the digits are read by Horner's scheme, and one other character spoils the string. -/
theorem parseDecReadsDigits : Obligations.ParseDecReadsDigits := by
  refine ⟨fun ds => parseDec_digits, fun s hs => ?_⟩
  obtain rfl | hbad := hs
  · rfl
  · exact parseDec_of_nondigit hbad

/-- `ParseDec` reads back what `dec` writes. -/
theorem parseDec_dec (n : Nat) : parseDec (dec n) = some n := by
  obtain rfl | hpos := Nat.eq_zero_or_pos n
  · rfl
  · have hne : (Nat.digits 10 n).reverse ≠ [] := by
      simpa using Nat.digits_ne_nil_iff_ne_zero.2 hpos.ne'
    have hlt : ∀ d ∈ (Nat.digits 10 n).reverse, d < 10 := fun d hd =>
      Nat.digits_lt_base (by decide) (List.mem_reverse.1 hd)
    rw [dec_eq_digits hpos, parseDec_digits hne hlt, List.reverse_reverse, Nat.ofDigits_digits]

/-! ## The operands of the enable commands (R95) -/

theorem parseEnable_digit (on : Bool) : parseEnable (if on then 0x31 else 0x30) = some on := by
  cases on <;> rfl

theorem parseEnableChannel_of_enable {e : Byte} {args : List Byte} (h : parseEnable e = none) :
    parseEnableChannel (e :: args) = none := by
  simp only [parseEnableChannel, h]

theorem parseEnableChannel_of_channel {e : Byte} {args : List Byte} (h : parseChannel args = none) :
    parseEnableChannel (e :: args) = none := by
  simp only [parseEnableChannel, h]
  cases parseEnable e <;> rfl

theorem parseChannel_of_parseDec {args : List Byte} (h : parseDec args = none) :
    parseChannel args = none := by
  simp [parseChannel, h]

/-- One or two digits are a channel when the number they spell is at most 31. -/
theorem parseEnableChannel_digits (on : Bool) {ds : List Nat} (hne : ds ≠ []) (hlen : ds.length ≤ 2)
    (hlt : ∀ d ∈ ds, d < 10) :
    parseEnableChannel ((if on then 0x31 else 0x30) :: ds.map digitOf) =
      if Nat.ofDigits 10 ds.reverse ≤ 31 then some (on, Nat.ofDigits 10 ds.reverse) else none := by
  simp only [parseEnableChannel, parseEnable_digit, parseChannel, List.length_map, hlen, if_true,
    parseDec_digits hne hlt]
  by_cases hmax : Nat.ofDigits 10 ds.reverse ≤ 31
  · simp only [if_pos hmax]
  · simp only [if_neg hmax]

/-- Settles O2: a malformed part makes the line malformed, and digits are read by `ParseDec`. -/
theorem enableChannelOperands : Obligations.EnableChannelOperands := by
  refine ⟨rfl, fun e => parseEnableChannel_of_channel rfl, fun e args h0 h1 => ?enable,
    fun e args hlen => ?long,
    fun e args hbad => parseEnableChannel_of_channel (parseChannel_of_parseDec
      (parseDec_of_nondigit hbad)),
    fun on d hd => ?one, fun on d1 d2 hd1 hd2 => ?two⟩
  case enable =>
    refine parseEnableChannel_of_enable ?_
    rw [parseEnable, if_neg h0, if_neg h1]
  case long =>
    refine parseEnableChannel_of_channel ?_
    rw [parseChannel, if_neg (Nat.not_le.2 hlen)]
  case one =>
    have hread := parseEnableChannel_digits on (ds := [d]) (by simp) (by simp) (by simpa using hd)
    have hvalue : Nat.ofDigits 10 [d].reverse = d := Nat.ofDigits_singleton
    rw [hvalue, if_pos (Nat.le_trans hd.le (by decide))] at hread
    exact hread
  case two =>
    have hread := parseEnableChannel_digits on (ds := [d1, d2]) (by simp) (by simp)
      (by simpa using ⟨hd1, hd2⟩)
    have hvalue : Nat.ofDigits 10 [d1, d2].reverse = 10 * d1 + d2 := by
      simp [Nat.ofDigits_cons, Nat.add_comm]
    rw [hvalue] at hread
    exact hread

/-! ## Command lines (R90 to R93, R96) -/

theorem isLineChar_iff (c : Byte) :
    isLineChar c = true ↔ c ≠ 0x0D ∧ c ≠ 0x0A ∧ c ≠ 0x2A := by
  simp [isLineChar, Config.charCR, Config.charLF, Config.resetChar, and_assoc]

theorem isTerminator_iff (c : Byte) : isTerminator c = true ↔ c = 0x0D ∨ c = 0x0A := by
  simp [isTerminator, Config.charCR, Config.charLF]

theorem argsOk_iff (p : Params) (args : List Byte) :
    argsOk p args = true ↔ args.all isLineChar = true ∧ args.length + 1 ≤ p.cmdbufCapacity := by
  rw [argsOk, Bool.and_eq_true, decide_eq_true_eq]

theorem decodeLine_of_not_opcode {op : Byte} (args : List Byte) (h : op ∉ opcodeLetters) :
    decodeLine op args = .reject op args := by
  simp only [opcodeLetters, List.mem_cons, List.not_mem_nil, or_false, not_or] at h
  simp only [decodeLine, h, if_false]

/-- Settles O6: the ten letters one by one; the other characters fall through all of them. -/
theorem opcodeMapIsTable : Obligations.OpcodeMapIsTable := fun args =>
  ⟨rfl, rfl, rfl, rfl, rfl, rfl, rfl, rfl, rfl, rfl, fun _ h => decodeLine_of_not_opcode args h⟩

theorem decodeAccumulated_reset (p : Params) (acc rest : List Byte) :
    decodeAccumulated p acc (Config.resetChar :: rest) = .ok (.reset, rest) := by
  simp only [decodeAccumulated, if_true]

theorem decodeAccumulated_terminator {c : Byte} (p : Params) (op : Byte) (args rest : List Byte)
    (hc : isTerminator c = true) :
    decodeAccumulated p (op :: args) (c :: rest) = .ok (decodeLine op args, rest) := by
  have hreset : c ≠ Config.resetChar := by
    obtain rfl | rfl := (isTerminator_iff c).1 hc <;> decide
  simp only [decodeAccumulated, if_neg hreset, if_pos hc]

/-- A character of a line is neither the reset nor a terminator. -/
theorem decodeAccumulated_lineChar {c : Byte} (p : Params) (acc rest : List Byte)
    (hc : isLineChar c = true) :
    decodeAccumulated p acc (c :: rest) =
      if acc.length = p.cmdbufCapacity then .error .lineTooLong
      else decodeAccumulated p (acc ++ [c]) rest := by
  obtain ⟨hcr, hlf, hreset⟩ := (isLineChar_iff c).1 hc
  have hterm : ¬ isTerminator c = true := by
    rw [isTerminator_iff]
    exact not_or.2 ⟨hcr, hlf⟩
  simp only [decodeAccumulated, if_neg (show c ≠ Config.resetChar from hreset), if_neg hterm]

/-- The characters of a line that fits are accumulated. -/
theorem decodeAccumulated_line {p : Params} {acc line : List Byte} (rest : List Byte)
    (hline : line.all isLineChar = true) (hfit : acc.length + line.length ≤ p.cmdbufCapacity) :
    decodeAccumulated p acc (line ++ rest) = decodeAccumulated p (acc ++ line) rest := by
  induction line generalizing acc with
  | nil => simp
  | cons c line ih =>
    rw [List.all_cons, Bool.and_eq_true] at hline
    obtain ⟨hc, hline⟩ := hline
    rw [List.length_cons] at hfit
    rw [List.cons_append, decodeAccumulated_lineChar p _ _ hc, if_neg (by omega),
      ih hline (by simpa [Nat.add_assoc, Nat.add_comm 1] using hfit), List.append_assoc]
    rfl

/-- A line that does not fit is refused at the first character without room. -/
theorem decodeAccumulated_overlong {p : Params} {acc line : List Byte} (rest : List Byte)
    (hline : line.all isLineChar = true) (hacc : acc.length ≤ p.cmdbufCapacity)
    (hlong : p.cmdbufCapacity < acc.length + line.length) :
    decodeAccumulated p acc (line ++ rest) = .error .lineTooLong := by
  induction line generalizing acc with
  | nil => exact absurd hlong (Nat.not_lt.2 hacc)
  | cons c line ih =>
    rw [List.all_cons, Bool.and_eq_true] at hline
    obtain ⟨hc, hline⟩ := hline
    rw [List.length_cons] at hlong
    rw [List.cons_append, decodeAccumulated_lineChar p _ _ hc]
    split
    next => rfl
    next hroom =>
      refine ih hline ?_ ?_ <;> rw [List.length_append, List.length_singleton] <;> omega

/-- A line that fits, with what ends it, is read as what the accumulated line and its end are. -/
theorem decodeCommand_line {p : Params} {op : Byte} {args : List Byte} (rest : List Byte)
    (hop : isLineChar op = true) (hargs : argsOk p args = true) :
    decodeCommand p (op :: args ++ rest) = decodeAccumulated p (op :: args) rest := by
  obtain ⟨hline, hfit⟩ := (argsOk_iff p args).1 hargs
  exact decodeAccumulated_line (acc := []) rest (by rw [List.all_cons, hop, hline]; rfl)
    (by simpa using hfit)

/-- Settles O5: the line is accumulated, then its end decides; without room it is refused. -/
theorem lineEndsAtTerminator : Obligations.LineEndsAtTerminator := by
  intro p op args rest _ hop hargs
  refine ⟨fun hfit => ?fits, fun hlong => ?overlong⟩
  case fits =>
    have hok : argsOk p args = true := (argsOk_iff p args).2 ⟨hargs, hfit⟩
    refine ⟨?cr, ?lf, ?reset⟩
    case cr | lf => rw [decodeCommand_line _ hop hok, decodeAccumulated_terminator p op args rest rfl]
    case reset =>
      rw [decodeCommand_line _ hop hok]
      exact decodeAccumulated_reset p (op :: args) rest
  case overlong =>
    exact decodeAccumulated_overlong rest (by rw [List.all_cons, hop, hargs]; rfl) (Nat.zero_le _)
      (by simpa using hlong)

theorem decodeCommand_encodeLine {p : Params} {op : Byte} {args : List Byte} (rest : List Byte)
    (hop : isLineChar op = true) (hargs : argsOk p args = true) :
    decodeCommand p (encodeLine op args ++ rest) = .ok (decodeLine op args, rest) := by
  have hsplit : encodeLine op args ++ rest = op :: args ++ Config.charCR :: rest := by
    simp [encodeLine]
  rw [hsplit, decodeCommand_line _ hop hargs, decodeAccumulated_terminator p op args rest rfl]

theorem decodeCommand_encode {p : Params} {i : Instr} (rest : List Byte) (hwf : i.wf p = true)
    (hhost : isHostCommand i = true) : decodeCommand p (encode p i ++ rest) = .ok (i, rest) := by
  cases i with
  | reset => exact decodeAccumulated_reset p [] rest
  | emptyLine => rfl
  | ident args | rate args | limit args | ascale args | fixed args | cont args | aen args | den args
  | trig args | pretrig args => exact decodeCommand_encodeLine rest rfl hwf
  | reject first args =>
    simp only [Instr.wf, Bool.and_eq_true, Bool.not_eq_true', List.contains_eq_mem,
      decide_eq_false_iff_not] at hwf
    obtain ⟨⟨hfirst, hletter⟩, hargs⟩ := hwf
    rw [encode, decodeCommand_encodeLine rest hfirst hargs, decodeLine_of_not_opcode args hletter]
  | _ => cases hhost

theorem wf_abortChar_ne {p : Params} (h : p.wf = true) : p.abortChar ≠ Config.resetChar := by
  simp only [Params.wf, Bool.and_eq_true, bne_iff_ne] at h
  obtain ⟨⟨⟨⟨⟨⟨⟨⟨⟨⟨-, hreset⟩, -⟩, -⟩, -⟩, -⟩, -⟩, -⟩, -⟩, -⟩, -⟩ := h
  exact hreset

/-- Settles O3: a control character stands for itself; a line is accumulated up to its CR and selects the
command of its first character. -/
theorem commandDecodesEncoded : Obligations.CommandDecodesEncoded := by
  intro p i rest hp hwf
  refine ⟨decodeCommand_encode rest hwf, fun hcontrol => ?_⟩
  obtain rfl | rfl := hcontrol
  · simp [encode, decodeControl]
  · simp [encode, decodeControl, wf_abortChar_ne hp]

/-! ## A line in the parser (R131 to R135) -/

theorem andThen_assoc (o : Out) (f g : State → Out) :
    andThen (andThen o f) g = andThen o fun s => andThen (f s) g := by
  cases o <;> rfl

theorem andThen_right_next (o : Out) : andThen o .next = o := by
  cases o <;> rfl

theorem feed_append (line more : List Byte) (s : State) :
    feed (line ++ more) s = andThen (feed line s) (feed more) := by
  induction line generalizing s with
  | nil => rfl
  | cons c line ih =>
    simp only [List.cons_append, feed, andThen_assoc]
    exact congrArg _ (funext ih)

theorem parserStep_lineChar {c : Byte} {s : State} (hc : isTerminator c = false)
    (hroom : s.session.cmdBuf.live.length ≠ s.params.cmdbufCapacity) :
    exec (.parserStep c) s = .next { s with session.cmdBuf := s.session.cmdBuf.push c } := by
  simp only [exec, execParserStep, hc, Bool.false_eq_true, if_false, hroom]

theorem parserStep_terminator {c : Byte} {s : State} (hc : isTerminator c = true)
    (hline : s.session.cmdBuf.live ≠ []) :
    exec (.parserStep c) s =
      andThen (exec (.dispatch (.line s.session.cmdBuf.live)) s) fun u => .next (clearCmd u) := by
  simp only [exec, execParserStep, hc, if_true, hline, if_false, execDispatch]

/-- Characters that fit are appended to the command buffer, and nothing else changes. -/
theorem feed_line {line : List Byte} {s : State} (hline : ∀ c ∈ line, isTerminator c = false)
    (hfit : s.session.cmdBuf.live.length + line.length ≤ s.params.cmdbufCapacity) :
    feed line s = .next { s with session.cmdBuf :=
      ⟨s.session.cmdBuf.live ++ line, s.session.cmdBuf.stale.drop line.length⟩ } := by
  induction line generalizing s with
  | nil => simp [feed]
  | cons c line ih =>
    rw [List.forall_mem_cons] at hline
    obtain ⟨hc, hline⟩ := hline
    rw [List.length_cons] at hfit
    rw [feed, parserStep_lineChar hc (by omega), andThen_next, ih hline]
    · simp
    · simpa [Nat.add_assoc, Nat.add_comm 1] using hfit

/-- Settles O16: by induction over the line, then one step for the terminator. -/
theorem parserAccumulatesLine : Obligations.ParserAccumulatesLine := by
  intro line s hempty hline hfit t
  have hchars : ∀ c ∈ line, isTerminator c = false := fun c hc => by
    obtain ⟨hcr, hlf, -⟩ := hline c hc
    rw [Bool.eq_false_iff, ne_eq, isTerminator_iff]
    exact not_or.2 ⟨hcr, hlf⟩
  have hfeed : feed line s = .next t := by
    rw [feed_line hchars (by simpa [hempty] using hfit), hempty]
    rfl
  refine ⟨hfeed, fun hne c hc => ?_⟩
  rw [feed_append, hfeed, andThen_next]
  exact (andThen_right_next _).trans (parserStep_terminator ((isTerminator_iff c).2 hc) hne)

/-! ## Commands that write the response at most (R134, R135, R137, R140, R145, R146) -/

theorem dispatchLine_of_next {op : Byte} {args : List Byte} {s t : State}
    (h : runLineCommand (decodeLine op args) (setRsp s ackBytes) = .next t) :
    exec (.dispatch (.line (op :: args))) s = .next (respond t) := by
  simp only [exec, execDispatch, dispatchLine, h, andThen_next]

theorem respond_ack (s : State) :
    respond (setRsp s ackBytes) = (setRsp s ackBytes).pushB [.outAck, .dispatch .clear] := rfl

theorem respond_nil (s : State) : respond (setRsp s []) = setRsp s [] := rfl

/-- Settles O9: each command by its definition; a dispatched line starts with the response `*`. -/
theorem responseOnlyCommands : Obligations.ResponseOnlyCommands := by
  intro args s
  refine ⟨?ident, rfl, rfl, rfl, fun first => rfl, rfl, fun op hop => ?accepted, fun op hop => ?rejected⟩
  case ident => rw [← identString_eq]; rfl
  case accepted =>
    refine (dispatchLine_of_next (t := setRsp s ackBytes) ?_).trans (congrArg _ (respond_ack s))
    obtain rfl | rfl := hop <;> rfl
  case rejected =>
    refine (dispatchLine_of_next (t := setRsp s []) ?_).trans (congrArg _ (respond_nil s))
    rw [decodeLine_of_not_opcode args hop]
    rfl

end Sys2Proof.Machine
end

section
/-! PROOFS. Proofs/OutputAlphabet.lean: the value and the fields of each output byte (spec/30_encoding.md rules
R100 to R104), the bytes that the parts of the encoders emit (rule R109), and the decoder of the output
alphabet on what the encoder writes (rules R99 to R108). -/

namespace Sys2Proof.Machine

/-! ## One byte (R100 to R104) -/

@[simp] theorem taggedByte_toNat (run : BitVec 3) (value : Nibble) :
    (taggedByte run value).toNat = 128 + 16 * run.toNat + value.toNat := by
  rw [taggedByte_eq_ofNat, BitVec.toNat_ofNat]
  omega

@[simp] theorem dataByte_toNat (d : BitVec 7) : (dataByte d).toNat = 128 + d.toNat := by
  rw [dataByte_eq_ofNat, BitVec.toNat_ofNat]
  omega

@[simp] theorem runByte_toNat (n : BitVec 7) : (runByte n).toNat = n.toNat := by
  rw [runByte_eq_ofNat, BitVec.toNat_ofNat]
  omega

@[simp] theorem taggedByte_value (run : BitVec 3) (value : Nibble) :
    (taggedByte run value).setWidth 4 = value := by
  apply BitVec.eq_of_toNat_eq
  rw [BitVec.toNat_setWidth, taggedByte_toNat]
  omega

@[simp] theorem taggedByte_run (run : BitVec 3) (value : Nibble) :
    (taggedByte run value >>> 4).setWidth 3 = run := by
  apply BitVec.eq_of_toNat_eq
  rw [BitVec.toNat_setWidth, BitVec.toNat_ushiftRight, taggedByte_toNat, Nat.shiftRight_eq_div_pow]
  omega

/-- The three bits that the reference decoder masks out are the run field. -/
@[simp] theorem taggedByte_run_toNat (run : BitVec 3) (value : Nibble) :
    ((taggedByte run value >>> 4) &&& 7).toNat = run.toNat := by
  have hmask : ((taggedByte run value >>> 4) &&& 7).toNat
      = (taggedByte run value >>> 4).toNat % 2 ^ 3 := Nat.and_two_pow_sub_one_eq_mod _ 3
  rw [hmask, BitVec.toNat_ushiftRight, taggedByte_toNat, Nat.shiftRight_eq_div_pow]
  omega

@[simp] theorem dataByte_data (d : BitVec 7) : (dataByte d).setWidth 7 = d := by
  apply BitVec.eq_of_toNat_eq
  rw [BitVec.toNat_setWidth, dataByte_toNat]
  omega

@[simp] theorem runByte_code (n : BitVec 7) : (runByte n).setWidth 7 = n := by
  apply BitVec.eq_of_toNat_eq
  rw [BitVec.toNat_setWidth, runByte_toNat]
  omega

/-! ## The bytes of a list of operations -/

@[simp] theorem outBytes_nil : outBytes [] = [] := rfl

@[simp] theorem outBytes_append (ops more : List Instr) :
    outBytes (ops ++ more) = outBytes ops ++ outBytes more := List.flatMap_append

@[simp] theorem outBytes_cons (i : Instr) (ops : List Instr) :
    outBytes (i :: ops) = encode Config.defaultParams i ++ outBytes ops := List.flatMap_cons

theorem outBytes_replicate {i : Instr} {b : Byte} (h : encode Config.defaultParams i = [b]) (k : Nat) :
    outBytes (List.replicate k i) = List.replicate k b := by
  induction k with
  | zero => rfl
  | succ k ih => rw [List.replicate_succ, outBytes_cons, h, ih, List.replicate_succ]; rfl

theorem outBytes_optional {c : Prop} [Decidable c] {i : Instr} {b : Byte}
    (h : encode Config.defaultParams i = [b]) :
    outBytes (if c then [i] else []) = if c then [b] else [] := by
  split
  · rw [outBytes_cons, h]; rfl
  · rfl

/-- A group byte for each of the `t` groups of seven bits (R102). -/
theorem outBytes_groupOps (t : Nat) (v : Word) :
    outBytes (groupOps t v) = (List.range t).map fun g => dataByte ((v >>> (7 * g)).setWidth 7) := by
  rw [outBytes, groupOps, List.flatMap_map, List.map_eq_flatMap]
  rfl

/-- One byte for each conversion of a slice, without its least significant bit (R104). -/
def analogBytes (ana : List Word) : List Byte :=
  ana.map fun a : Word => dataByte ((a >>> 1).setWidth 7)

/-- The bytes of a slice: those of its digital sample, then those of its conversions (R272). -/
theorem outBytes_sliceOut (t : Nat) (dig : Option Word) (ana : List Word) :
    outBytes (sliceOut t dig ana) = outBytes (dig.elim [] (groupOps t)) ++ analogBytes ana := by
  have hana : outBytes (ana.map analogOp) = analogBytes ana := by
    rw [outBytes, List.flatMap_map, analogBytes, List.map_eq_flatMap]
    rfl
  have hflush : outBytes [.thresholdFlush] = [] := rfl
  cases dig <;> simp only [sliceOut, outBytes_append, hana, hflush, List.append_nil] <;> rfl

/-- Codes 127 for 640 samples each, then one code for the rest down to a multiple of eight (R236). -/
theorem outBytes_flushLong (run : Word) :
    outBytes (flushLong run).1 = List.replicate (run.toNat / 640) (runByte 127)
      ++ if 8 ≤ run.toNat % 640 then [runByte (BitVec.ofNat 7 (run.toNat % 640 / 8 + 47))] else [] := by
  rw [flushLong, outBytes_append, outBytes_replicate (b := runByte 127) rfl, outBytes_optional rfl]
  rfl

theorem flushLong_pending (run : Word) : (flushLong run).2.toNat = run.toNat % 640 % 8 := by
  simp only [flushLong, Config.nibRunMax, BitVec.toNat_ofNat]
  omega

/-- The two classes of byte run bytes have one form (R103). -/
theorem encode_brunOp (p : Params) (n : Nat) : encode p (brunOp n) = [runByte (BitVec.ofNat 7 n)] := by
  unfold brunOp
  split <;> rfl

/-- What is left for the direct code, when a stepped code has taken its multiple of 32 (R256). -/
def directRest (r : Nat) : Nat := if 32 < r then r % 32 else r

/-- Codes 127 for 1568 samples each, then one stepped and one direct code for the rest (R256). -/
theorem outBytes_runOps (n : Nat) :
    outBytes (runOps n) = List.replicate (n / 1568) (runByte 127)
      ++ (if 32 < n % 1568 then [runByte (BitVec.ofNat 7 (78 + n % 1568 / 32))] else [])
      ++ if 0 < directRest (n % 1568) then [runByte (BitVec.ofNat 7 (47 + directRest (n % 1568)))]
        else [] := by
  rw [runOps, outBytes_append, outBytes_append, outBytes_replicate (encode_brunOp _ 127),
    outBytes_optional (encode_brunOp _ _), outBytes_optional (encode_brunOp _ _)]
  rfl

/-! ## No byte of an encoder is reserved (R109) -/

/-- A byte of the second row of rule R99's table. -/
def IsRunByte (b : Byte) : Prop := 0x30 ≤ b.toNat ∧ b.toNat ≤ 0x7F

theorem isRunByte_of_code {n : Nat} (hlo : 48 ≤ n) (hhi : n ≤ 127) :
    IsRunByte (runByte (BitVec.ofNat 7 n)) := by
  rw [IsRunByte, runByte_toNat, BitVec.toNat_ofNat]
  omega

theorem flushLong_runBytes (run : Word) : ∀ b ∈ outBytes (flushLong run).1, IsRunByte b := by
  rw [outBytes_flushLong, List.forall_mem_append]
  refine ⟨fun b hb => ?long, fun b hb => ?rest⟩
  case long =>
    rw [List.eq_of_mem_replicate hb]
    exact isRunByte_of_code (n := 127) (by decide) (by decide)
  case rest =>
    split at hb
    · rw [List.mem_singleton.1 hb]
      exact isRunByte_of_code (by omega) (by omega)
    · cases hb

theorem runOps_runBytes (n : Nat) : ∀ b ∈ outBytes (runOps n), IsRunByte b := by
  have hrest : directRest (n % 1568) ≤ 32 := by
    unfold directRest
    split <;> omega
  rw [outBytes_runOps, List.forall_mem_append, List.forall_mem_append]
  refine ⟨⟨fun b hb => ?long, fun b hb => ?stepped⟩, fun b hb => ?direct⟩
  case long =>
    rw [List.eq_of_mem_replicate hb]
    exact isRunByte_of_code (n := 127) (by decide) (by decide)
  case stepped | direct =>
    split at hb
    · rw [List.mem_singleton.1 hb]
      exact isRunByte_of_code (by omega) (by omega)
    · cases hb

theorem groupOps_dataBytes (t : Nat) (v : Word) : ∀ b ∈ outBytes (groupOps t v), 0x80 ≤ b.toNat := by
  rw [outBytes_groupOps, List.forall_mem_map]
  intro g _
  rw [dataByte_toNat]
  omega

theorem outTagged_dataByte (run : BitVec 3) (value : Nibble) :
    ∀ b ∈ outBytes [.outTagged run value], 0x80 ≤ b.toNat := by
  intro b hb
  obtain rfl : b = taggedByte run value := List.mem_singleton.1 hb
  rw [taggedByte_toNat]
  omega

theorem analogBytes_dataBytes (ana : List Word) : ∀ b ∈ analogBytes ana, 0x80 ≤ b.toNat := by
  rw [analogBytes, List.forall_mem_map]
  intro a _
  rw [dataByte_toNat]
  omega

theorem sliceOut_dataBytes (t : Nat) (dig : Option Word) (ana : List Word) :
    ∀ b ∈ outBytes (sliceOut t dig ana), 0x80 ≤ b.toNat := by
  rw [outBytes_sliceOut, List.forall_mem_append]
  refine ⟨?_, analogBytes_dataBytes ana⟩
  cases dig with
  | none => simp
  | some v => exact groupOps_dataBytes t v

/-- The bytes of a list of operations are all 0x30 or above. -/
def InBand (ops : List Instr) : Prop := ∀ b ∈ outBytes ops, 0x30 ≤ b.toNat

theorem InBand.append {ops more : List Instr} (h : InBand ops) (h' : InBand more) :
    InBand (ops ++ more) := by
  rw [InBand, outBytes_append, List.forall_mem_append]
  exact ⟨h, h'⟩

theorem InBand.nil : InBand [] := by simp [InBand]

theorem inBand_of_data {ops : List Instr} (h : ∀ b ∈ outBytes ops, 0x80 ≤ b.toNat) : InBand ops :=
  fun b hb => Nat.le_trans (by decide) (h b hb)

theorem inBand_outTagged (run : BitVec 3) (value : Nibble) : InBand [.outTagged run value] :=
  inBand_of_data (outTagged_dataByte run value)

theorem inBand_flushLong (run : Word) : InBand (flushLong run).1 :=
  fun b hb => (flushLong_runBytes run b hb).1

theorem inBand_runOps (n : Nat) : InBand (runOps n) := fun b hb => (runOps_runBytes n b hb).1

theorem inBand_groupOps (t : Nat) (v : Word) : InBand (groupOps t v) :=
  inBand_of_data (groupOps_dataBytes t v)

theorem inBand_nibSeed (e : Enc) (w : Word) : InBand (nibSeed e w).1 := by
  intro b hb
  obtain ⟨i, hi, hbi⟩ := List.mem_flatMap.1 hb
  obtain ⟨j, -, rfl⟩ := List.mem_map.1 hi
  exact inBand_outTagged 0 (nib w j) b (by simpa using hbi)

theorem inBand_nibStep (e : Enc) (v : Nibble) : InBand (nibStep e v).1 := by
  unfold nibStep
  split
  · exact .nil
  · exact (inBand_flushLong _).append (inBand_outTagged _ _)

theorem inBand_nibSteps (e : Enc) (vs : List Nibble) : InBand (nibSteps e vs).1 := by
  induction vs generalizing e with
  | nil => exact .nil
  | cons v vs ih => exact (inBand_nibStep e v).append (ih _)

theorem inBand_nibWord (e : Enc) (w : Word) : InBand (nibWord e w).1 := by
  unfold nibWord
  split
  · exact .nil
  · exact inBand_nibSteps e (nibbles w)

theorem inBand_nibEnd (e : Enc) : InBand (nibEnd e).1 := by
  refine (inBand_flushLong e.runCnt).append ?_
  split
  · exact .nil
  · exact inBand_outTagged _ _

theorem inBand_byteStep (t : Nat) (e : Enc) (v : Word) : InBand (byteStep t e v).1 := by
  unfold byteStep
  split
  · exact .nil
  · exact ((inBand_runOps _).append (inBand_groupOps t v)).append (by simp [InBand, encode])

/-- Settles O8: the seed, the values and the slices are made of bytes with bit 7 set, the runs of run bytes. -/
theorem encodersAvoidReservedBytes : Obligations.EncodersAvoidReservedBytes := by
  refine ⟨fun e w => ?nibble, fun t e v => ?byte, sliceOut_dataBytes, groupOps_dataBytes,
    outTagged_dataByte, runOps_runBytes, flushLong_runBytes⟩
  case nibble =>
    rw [← outBytes_append, ← outBytes_append]
    exact ((inBand_nibSeed e w).append (inBand_nibWord e w)).append (inBand_nibEnd e)
  case byte =>
    rw [← outBytes_append, ← outBytes_append]
    exact ((inBand_groupOps t v).append (inBand_byteStep t e v)).append (inBand_runOps _)

/-! ## Decoding the output alphabet (R99 to R108) -/

theorem decodeOut_high {b : Byte} (p : Params) (ctx : OutCtx) (rest : List Byte)
    (hb : 0x80 ≤ b.toNat) : decodeOut p ctx (b :: rest) = decodeHigh ctx b rest := by
  rw [decodeOut, if_pos hb]

theorem decodeOut_middle {b : Byte} (p : Params) (ctx : OutCtx) (rest : List Byte)
    (hb : IsRunByte b) : decodeOut p ctx (b :: rest) = decodeMiddle p ctx b rest := by
  obtain ⟨hlo, hhi⟩ := hb
  rw [decodeOut, if_neg (by omega), if_pos hlo]

theorem decodeOut_tagged (p : Params) (run : BitVec 3) (value : Nibble) (rest : List Byte) :
    decodeOut p .nibble (taggedByte run value :: rest) = .ok (.outTagged run value, rest) := by
  rw [decodeOut_high p _ _ (by rw [taggedByte_toNat]; omega)]
  simp only [decodeHigh, taggedByte_run, taggedByte_value]

theorem decodeOut_data (p : Params) (ctx : OutCtx) (d : BitVec 7) (rest : List Byte) :
    decodeOut p ctx (dataByte d :: rest) = decodeHigh ctx (dataByte d) rest :=
  decodeOut_high p ctx rest (by rw [dataByte_toNat]; omega)

theorem decodeOut_run {n : BitVec 7} (p : Params) (ctx : OutCtx) (rest : List Byte)
    (hn : 48 ≤ n.toNat) :
    decodeOut p ctx (runByte n :: rest) = decodeMiddle p ctx (runByte n) rest :=
  decodeOut_middle p ctx rest (by rw [IsRunByte, runByte_toNat]; omega)

theorem decodeOut_reserved {b : Byte} (p : Params) (ctx : OutCtx) (rest : List Byte)
    (hb : b.toNat < 0x30) : decodeOut p ctx (b :: rest) = decodeReserved ctx b rest := by
  rw [decodeOut, if_neg (by omega), if_neg (Nat.not_le.2 hb)]

/-- The contexts of markers and records are those of a capture. -/
theorem ne_noCapture_of_mem {ctx : OutCtx} (h : ctx ∈ outContexts .outMarker) : ctx ≠ .noCapture := by
  rintro rfl
  simp [outContexts] at h

theorem decodeOut_marker {ctx : OutCtx} (p : Params) (rest : List Byte) (hctx : ctx ≠ .noCapture) :
    decodeOut p ctx (abortMarker ++ rest) = .ok (.outMarker, rest) := by
  refine (decodeOut_reserved p ctx _ (by decide)).trans ?_
  rw [decodeReserved, if_neg hctx]
  rfl

/-- In a capture a `$` begins a record. -/
theorem decodeOut_dollar {ctx : OutCtx} (p : Params) (rest : List Byte) (hctx : ctx ≠ .noCapture) :
    decodeOut p ctx (0x24 :: rest) = decodeRecord rest := by
  rw [decodeOut_reserved p ctx rest (by decide), decodeReserved, if_neg hctx]
  rfl

/-- The digits of a record end at its `+`, which is no digit. -/
theorem decodeRecord_dec (n : Nat) (rest : List Byte) :
    decodeRecord (dec n ++ 0x2B :: rest) = .ok (.outRecord n, rest) := by
  have hdigits : ∀ c ∈ dec n, isDigit c = true :=
    List.all_eq_true.1 (all_isDigit_of_parseDec (parseDec_dec n))
  have htake : (dec n ++ 0x2B :: rest).takeWhile isDigit = dec n := by
    rw [List.takeWhile_append_of_pos hdigits, List.takeWhile_cons_of_neg (by decide), List.append_nil]
  have hdrop : (dec n ++ 0x2B :: rest).dropWhile isDigit = 0x2B :: rest := by
    rw [List.dropWhile_append_of_pos hdigits, List.dropWhile_cons_of_neg (by decide)]
  simp only [decodeRecord, htake, hdrop, parseDec_dec, and_self, if_true]

theorem decodeOut_ident (p : Params) (rest : List Byte) :
    decodeOut p .noCapture (identString p ++ rest) = .ok (.outIdent, rest) := by
  obtain ⟨tail, htail⟩ : ∃ tail, identString p = 0x53 :: tail := ⟨_, identString_eq p⟩
  have hprefix : (identString p).isPrefixOf (identString p ++ rest) = true :=
    List.isPrefixOf_iff_prefix.2 (List.prefix_append _ _)
  have hdrop : (identString p ++ rest).drop (identString p).length = rest := List.drop_left
  have hcons : identString p ++ rest = 0x53 :: (tail ++ rest) := by rw [htail, List.cons_append]
  rw [hcons] at hprefix hdrop ⊢
  rw [decodeOut_middle p _ _ ⟨by decide, by decide⟩]
  simp only [decodeMiddle, hprefix, hdrop, if_true]

/-- Settles O4: the context and the range of the first byte tell the class, and the fields give the operands
back. -/
theorem outputDecodesEncoded : Obligations.OutputDecodesEncoded := by
  intro p i ctx rest hwf hctx
  cases i with
  | outTagged run value =>
    obtain rfl : ctx = .nibble := List.mem_singleton.1 hctx
    exact decodeOut_tagged p run value rest
  | outNrun n =>
    obtain rfl : ctx = .nibble := List.mem_singleton.1 hctx
    refine (decodeOut_run p _ rest (of_decide_eq_true hwf)).trans ?_
    simp only [decodeMiddle, runByte_code]
  | outGroup d =>
    refine (decodeOut_data p ctx d rest).trans ?_
    simp only [outContexts, List.mem_cons, List.not_mem_nil, or_false] at hctx
    obtain rfl | rfl := hctx <;> simp only [decodeHigh, dataByte_data]
  | outAnalog m =>
    obtain rfl : ctx = .analogPlace := List.mem_singleton.1 hctx
    refine (decodeOut_data p _ m rest).trans ?_
    simp only [decodeHigh, dataByte_data]
  | outBrunDirect n =>
    obtain rfl : ctx = .byteRle := List.mem_singleton.1 hctx
    simp only [Instr.wf, Bool.and_eq_true, decide_eq_true_eq] at hwf
    obtain ⟨hlo, hhi⟩ := hwf
    refine (decodeOut_run p _ rest hlo).trans ?_
    simp only [decodeMiddle, runByte_code, runByte_toNat, if_pos (show n.toNat < 80 by omega)]
  | outBrunStep n =>
    obtain rfl : ctx = .byteRle := List.mem_singleton.1 hctx
    have hlo : 80 ≤ n.toNat := of_decide_eq_true hwf
    refine (decodeOut_run p _ rest (by omega)).trans ?_
    simp only [decodeMiddle, runByte_code, runByte_toNat, if_neg (Nat.not_lt.2 hlo)]
  | outMarker => exact decodeOut_marker p rest (ne_noCapture_of_mem hctx)
  | outRecord count =>
    have hsplit : encode p (.outRecord count) ++ rest = 0x24 :: (dec count ++ 0x2B :: rest) := by
      simp [encode, completionRecord]
    rw [hsplit, decodeOut_dollar p _ (ne_noCapture_of_mem hctx), decodeRecord_dec]
  | outAck =>
    obtain rfl : ctx = .noCapture := List.mem_singleton.1 hctx
    rfl
  | outIdent =>
    obtain rfl : ctx = .noCapture := List.mem_singleton.1 hctx
    exact decodeOut_ident p rest
  | _ => cases hctx

/-- Settles O7: each word is decoded; the last two by the class of their one byte. -/
theorem writtenWordsDecode : Obligations.WrittenWordsDecode := by
  refine ⟨by decide, by decide, by decide, by decide, by decide, fun rest => rfl, fun rest => rfl⟩

end Sys2Proof.Machine
end

section
/-! PROOFS. Proofs/StreamDecoding.lean: the reference decoders of spec/30_encoding.md rule R110 read the samples
of a capture back from what the encoders emit, for any division into halves (rule R111). -/

namespace Sys2Proof.Machine

/-! ## Decoding piece by piece -/

/-- A decoder that remembers the previous sample reads `bytes` as the samples `out`, after `prev` and before
`last`, whatever bytes follow. -/
def Reads {α : Type} (dec : Option α → List Byte → Option (List α)) (prev : Option α)
    (bytes : List Byte) (out : List α) (last : Option α) : Prop :=
  ∀ rest, dec prev (bytes ++ rest) = (dec last rest).map (out ++ ·)

section
variable {α : Type} {dec : Option α → List Byte → Option (List α)}

theorem Reads.nil (prev : Option α) : Reads dec prev [] [] prev := fun rest => by simp

theorem Reads.append {a b c : Option α} {bytes more : List Byte} {out next : List α}
    (h : Reads dec a bytes out b) (h' : Reads dec b more next c) :
    Reads dec a (bytes ++ more) (out ++ next) c := fun rest => by
  rw [List.append_assoc, h, h', Option.map_map]
  simp only [Function.comp_def, List.append_assoc]

/-- A run byte sent `n` times repeats the previous sample `n` times as often. -/
theorem Reads.replicate {v : α} {b : Byte} {k : Nat}
    (h : Reads dec (some v) [b] (List.replicate k v) (some v)) (n : Nat) :
    Reads dec (some v) (List.replicate n b) (List.replicate (n * k) v) (some v) := by
  induction n with
  | zero => simpa using Reads.nil (some v)
  | succ n ih =>
    rw [List.replicate_succ, Nat.succ_mul, Nat.add_comm, List.replicate_add]
    exact h.append ih

/-- A run byte that is sent only when its count is positive. -/
theorem Reads.optional {v : α} {c : Prop} [Decidable c] {b : Byte} {k : Nat}
    (h : c → Reads dec (some v) [b] (List.replicate k v) (some v)) (h0 : ¬ c → k = 0) :
    Reads dec (some v) (if c then [b] else []) (List.replicate k v) (some v) := by
  split
  next hc => exact h hc
  next hc =>
    rw [h0 hc]
    exact Reads.nil _

/-! ## Encoding piece by piece -/

variable {last : Enc → α}

/-- What the decoder remembers where the encoder holds `e`: nothing before the seed. -/
def remembered (last : Enc → α) (e : Enc) : Option α := if e.seeded then some (last e) else none

/-- The samples that are counted and not yet written out. -/
def pendingRun (last : Enc → α) (e : Enc) : List α := List.replicate e.runCnt.toNat (last e)

/-- A part of an encoder takes the samples `vs`: what it emits decodes to the samples pending before and `vs`,
up to those pending after; the run counter grows by no more than their number. -/
structure Encodes (dec : Option α → List Byte → Option (List α)) (last : Enc → α) (e : Enc)
    (vs : List α) (r : List Instr × Enc) : Prop where
  seeded : r.2.seeded = true
  count : r.2.runCnt.toNat ≤ e.runCnt.toNat + vs.length
  reads : ∃ out, Reads dec (remembered last e) (outBytes r.1) out (remembered last r.2) ∧
    pendingRun last e ++ vs = out ++ pendingRun last r.2

theorem Encodes.nil {e : Enc} (h : e.seeded = true) : Encodes dec last e [] ([], e) :=
  ⟨h, Nat.le_refl _, [], Reads.nil _, by simp⟩

theorem Encodes.append {e : Enc} {vs us : List α} {r q : List Instr × Enc}
    (h : Encodes dec last e vs r) (h' : Encodes dec last r.2 us q) :
    Encodes dec last e (vs ++ us) (r.1 ++ q.1, q.2) := by
  obtain ⟨out, hread, hout⟩ := h.reads
  obtain ⟨next, hread', hnext⟩ := h'.reads
  refine ⟨h'.seeded, ?_, out ++ next, ?_, ?_⟩
  · have h1 := h.count
    have h2 := h'.count
    rw [List.length_append]
    change q.2.runCnt.toNat ≤ _
    omega
  · rw [outBytes_append]
    exact hread.append hread'
  · rw [← List.append_assoc, hout, List.append_assoc, hnext, List.append_assoc]

/-- An encoder that has nothing pending before and after a part emits exactly the samples of the part. -/
theorem Encodes.reads_of_settled {e : Enc} {vs : List α} {r : List Instr × Enc}
    (h : Encodes dec last e vs r) (hbefore : e.runCnt = 0) (hafter : r.2.runCnt = 0) :
    Reads dec (remembered last e) (outBytes r.1) vs (remembered last r.2) := by
  obtain ⟨out, hread, hout⟩ := h.reads
  obtain rfl : vs = out := by simpa [pendingRun, hbefore, hafter] using hout
  exact hread

/-- A sample that is equal to the previous one is counted. -/
theorem Encodes.counted {e : Enc} {v : α} {k : Nat} (hseed : e.seeded = true) (hv : v = last e)
    (hlast : last { e with runCnt := e.runCnt + BitVec.ofNat 32 k } = last e)
    (hroom : e.runCnt.toNat + k < 2 ^ 32) :
    Encodes dec last e (List.replicate k v) ([], { e with runCnt := e.runCnt + BitVec.ofNat 32 k }) := by
  have hcount : (e.runCnt + BitVec.ofNat 32 k).toNat = e.runCnt.toNat + k := by
    rw [BitVec.toNat_add, BitVec.toNat_ofNat, Nat.mod_eq_of_lt (by omega : k < 2 ^ 32),
      Nat.mod_eq_of_lt hroom]
  refine ⟨hseed, ?_, [], ?_, ?_⟩
  · rw [hcount, List.length_replicate]
  · simp only [remembered, hlast]
    exact Reads.nil _
  · simp only [pendingRun, hlast, hcount, hv, List.nil_append, List.replicate_add]

/-- A part that writes out the pending run and leaves none. -/
theorem Encodes.written {e e' : Enc} {ops : List Instr} {vs : List α} (hseed : e.seeded = true)
    (hseed' : e'.seeded = true) (hcount : e'.runCnt = 0)
    (hread : Reads dec (some (last e)) (outBytes ops) (pendingRun last e ++ vs) (some (last e'))) :
    Encodes dec last e vs (ops, e') := by
  refine ⟨hseed', ?_, pendingRun last e ++ vs, ?_, ?_⟩
  · simp [hcount]
  · simpa only [remembered, hseed, hseed', if_true] using hread
  · simp [pendingRun, hcount]

end

theorem repeatPrev_some {α : Type} (v : α) (n : Nat) :
    repeatPrev (some v) n = some (List.replicate n v) := by
  cases n <;> rfl

/-! ## The nibble alphabet (R100, R101, R110) -/

/-- A tagged byte repeats the previous sample as often as its run field says, then gives its own. -/
theorem reads_tagged {prev : Option Nibble} {run : BitVec 3} {repeated : List Nibble} (v : Nibble)
    (h : repeatPrev prev run.toNat = some repeated) :
    Reads decodeNibbleFrom prev [taggedByte run v] (repeated ++ [v]) (some v) := by
  intro rest
  have hhigh : 0x80 ≤ (taggedByte run v).toNat := by rw [taggedByte_toNat]; omega
  rw [List.singleton_append, decodeNibbleFrom, if_pos hhigh]
  simp only [taggedByte_value, taggedByte_run_toNat, h, Option.bind_some, List.append_assoc,
    List.singleton_append]

/-- Tagged bytes with run 0 need no previous sample. -/
theorem reads_tagged_zero (vs : List Nibble) (prev : Option Nibble) :
    Reads decodeNibbleFrom prev (outBytes (vs.map (.outTagged 0))) vs (vs.getLast?.or prev) := by
  induction vs generalizing prev with
  | nil => exact Reads.nil prev
  | cons v vs ih =>
    have hlast : (v :: vs).getLast?.or prev = vs.getLast?.or (some v) := by
      rw [List.getLast?_cons]
      cases vs.getLast? <;> rfl
    rw [hlast]
    exact (reads_tagged (run := 0) v rfl).append (ih (some v))

theorem reads_nibbleRun {n : Nat} (u : Nibble) (hlo : 48 ≤ n) (hhi : n ≤ 127) :
    Reads decodeNibbleFrom (some u) [runByte (BitVec.ofNat 7 n)] (List.replicate ((n - 47) * 8) u)
      (some u) := by
  intro rest
  have hvalue : (runByte (BitVec.ofNat 7 n)).toNat = n := by
    rw [runByte_toNat, BitVec.toNat_ofNat]
    omega
  rw [List.singleton_append, decodeNibbleFrom, hvalue, if_neg (by omega), if_pos hlo,
    repeatPrev_some, Option.bind_some]

/-- FlushLong writes out a pending run up to what it leaves, less than eight samples (R236). -/
theorem reads_flushLong (u : Nibble) (run : Word) :
    ∃ k, k + (flushLong run).2.toNat = run.toNat ∧ (flushLong run).2.toNat < 8 ∧
      Reads decodeNibbleFrom (some u) (outBytes (flushLong run).1) (List.replicate k u) (some u) := by
  refine ⟨run.toNat / 640 * 640 + run.toNat % 640 / 8 * 8, ?_, ?_, ?_⟩
  · rw [flushLong_pending]
    omega
  · rw [flushLong_pending]
    omega
  · rw [outBytes_flushLong, List.replicate_add]
    refine Reads.append ((reads_nibbleRun u (n := 127) (by decide) (by decide)).replicate _) ?_
    refine Reads.optional (fun h => ?_) (fun h => by omega)
    simpa using reads_nibbleRun u (n := run.toNat % 640 / 8 + 47) (by omega) (by omega)

/-- A tagged byte after FlushLong writes out the whole pending run and gives the sample (R235, R237). -/
theorem reads_flushLong_tagged (u v : Nibble) (run : Word) :
    Reads decodeNibbleFrom (some u)
      (outBytes ((flushLong run).1 ++ [.outTagged ((flushLong run).2.setWidth 3) v]))
      (List.replicate run.toNat u ++ [v]) (some v) := by
  obtain ⟨k, hk, hlt, hread⟩ := reads_flushLong u run
  have hfield : ((flushLong run).2.setWidth 3).toNat = (flushLong run).2.toNat := by
    rw [BitVec.toNat_setWidth]
    omega
  rw [outBytes_append, ← hk, List.replicate_add, List.append_assoc, ← hfield]
  exact hread.append (reads_tagged v (repeatPrev_some u _))

/-! ## ENC_NIBBLE (R232 to R238) -/

/-- What ENC_NIBBLE emits, read by the reference decoder. -/
abbrev NibEncodes (e : Enc) (vs : List Nibble) (r : List Instr × Enc) : Prop :=
  Encodes decodeNibbleFrom Enc.nibLast e vs r

theorem nibStep_encodes {e : Enc} (v : Nibble) (hseed : e.seeded = true)
    (hroom : e.runCnt.toNat + 1 < 2 ^ 32) : NibEncodes e [v] (nibStep e v) := by
  unfold nibStep
  split
  next hv => exact Encodes.counted (k := 1) hseed hv rfl hroom
  next =>
    refine Encodes.written hseed hseed rfl ?_
    have hread := reads_flushLong_tagged e.nibLast v e.runCnt
    rw [outBytes_append] at hread ⊢
    exact hread

theorem nibSteps_encodes {e : Enc} (vs : List Nibble) (hseed : e.seeded = true)
    (hroom : e.runCnt.toNat + vs.length < 2 ^ 32) : NibEncodes e vs (nibSteps e vs) := by
  induction vs generalizing e with
  | nil => exact Encodes.nil hseed
  | cons v vs ih =>
    rw [List.length_cons] at hroom
    have hstep := nibStep_encodes v hseed (by omega)
    have hcount := hstep.count
    rw [List.length_singleton] at hcount
    exact hstep.append (ih hstep.seeded (by omega))

theorem nibStep_nibLast (e : Enc) (v : Nibble) : (nibStep e v).2.nibLast = v := by
  unfold nibStep
  split
  next hv => exact hv.symm
  next => rfl

theorem nibSteps_nibLast (e : Enc) (vs : List Nibble) :
    (nibSteps e vs).2.nibLast = vs.getLastD e.nibLast := by
  induction vs generalizing e with
  | nil => rfl
  | cons v vs ih =>
    have hrest := ih (nibStep e v).2
    rw [nibStep_nibLast] at hrest
    rw [List.getLastD_cons, ← hrest]
    rfl

/-- In a word equal to itself shifted by a nibble, each nibble is the next one. -/
theorem nib_succ_of_allEq {w : Word} {j : Nat} (h : allEq w = true) (hj : j < 7) :
    nib w (j + 1) = nib w j := by
  have hshift : w >>> 4 = w &&& 0x0FFFFFFF := by simpa [allEq] using h
  have hmask : ∀ i, i < 28 → (0x0FFFFFFF : Word).getLsbD i = true := by decide
  refine BitVec.eq_of_getLsbD_eq fun i hi => ?_
  have hbit := congrArg (fun x : Word => x.getLsbD (4 * j + i)) hshift
  simp only [BitVec.getLsbD_ushiftRight, BitVec.getLsbD_and, hmask _ (by omega : 4 * j + i < 28),
    Bool.and_true] at hbit
  simp only [nib, BitVec.getLsbD_setWidth, BitVec.getLsbD_ushiftRight, hi, decide_true,
    Bool.true_and, ← hbit]
  congr 1
  omega

theorem nibbles_of_allEq {w : Word} (h : allEq w = true) : nibbles w = List.replicate 8 (nib w 7) := by
  have hfirst : ∀ j, j < 8 → nib w j = nib w 0 := by
    intro j hj
    induction j with
    | zero => rfl
    | succ j ih => rw [nib_succ_of_allEq h (by omega), ih (by omega)]
  refine List.eq_replicate_iff.2 ⟨rfl, fun v hv => ?_⟩
  obtain ⟨j, hj, rfl⟩ := List.mem_map.1 hv
  rw [hfirst j (List.mem_range.1 hj), hfirst 7 (by decide)]

/-- The last sample sent or counted is the last of the last word, as the coarse path relies on (R234). -/
def LastAgrees (e : Enc) : Prop := e.nibLast = nib e.wordLast 7

theorem nibWord_encodes {e : Enc} (w : Word) (hseed : e.seeded = true) (hlast : LastAgrees e)
    (hroom : e.runCnt.toNat + 8 < 2 ^ 32) :
    NibEncodes e (nibbles w) (nibWord e w) ∧ LastAgrees (nibWord e w).2 := by
  unfold nibWord
  split
  next hw =>
    obtain ⟨rfl, heq⟩ := hw
    refine ⟨?_, hlast⟩
    rw [nibbles_of_allEq heq]
    exact Encodes.counted (k := 8) hseed hlast.symm rfl hroom
  next =>
    have hsteps := nibSteps_encodes (nibbles w) hseed hroom
    exact ⟨⟨hsteps.seeded, hsteps.count, hsteps.reads⟩, nibSteps_nibLast e (nibbles w)⟩

theorem nibWords_encodes {e : Enc} (ws : List Word) (hseed : e.seeded = true) (hlast : LastAgrees e)
    (hroom : e.runCnt.toNat + 8 * ws.length < 2 ^ 32) :
    NibEncodes e (ws.flatMap nibbles) (nibWords e ws) ∧ LastAgrees (nibWords e ws).2 := by
  induction ws generalizing e with
  | nil => exact ⟨Encodes.nil hseed, hlast⟩
  | cons w ws ih =>
    rw [List.length_cons] at hroom
    obtain ⟨hword, hagrees⟩ := nibWord_encodes w hseed hlast (by omega)
    have hcount : (nibWord e w).2.runCnt.toNat ≤ e.runCnt.toNat + 8 := hword.count
    obtain ⟨hrest, hagrees'⟩ := ih hword.seeded hagrees (by omega)
    exact ⟨hword.append hrest, hagrees'⟩

theorem nibSeed_encodes {e : Enc} (w : Word) (hseed : e.seeded = false) (hcount : e.runCnt = 0) :
    NibEncodes e (nibbles w) (nibSeed e w) ∧ LastAgrees (nibSeed e w).2 := by
  refine ⟨⟨rfl, Nat.zero_le _, nibbles w, ?_, ?_⟩, rfl⟩
  · have hbefore : remembered Enc.nibLast e = none := by simp [remembered, hseed]
    rw [hbefore]
    exact reads_tagged_zero (nibbles w) none
  · simp [pendingRun, hcount, nibSeed]

/-- The registers between two halves: nothing is pending (R237). -/
structure BetweenHalves (e : Enc) : Prop where
  settled : e.runCnt = 0
  agrees : e.seeded = true → LastAgrees e

theorem nibBody_encodes {e : Enc} {ws : List Word} (he : BetweenHalves e) (hne : ws ≠ [])
    (hroom : 8 * ws.length < 2 ^ 32) :
    NibEncodes e (ws.flatMap nibbles) (nibBody e ws) ∧ LastAgrees (nibBody e ws).2 := by
  have hcount : e.runCnt.toNat = 0 := by rw [he.settled]; rfl
  obtain ⟨w, ws, rfl⟩ := List.exists_cons_of_ne_nil hne
  cases hseed : e.seeded with
  | false =>
    obtain ⟨hfirst, hagrees⟩ := nibSeed_encodes w hseed he.settled
    have hzero : (nibSeed e w).2.runCnt.toNat = 0 := rfl
    rw [List.length_cons] at hroom
    obtain ⟨hrest, hagrees'⟩ := nibWords_encodes ws hfirst.seeded hagrees (by omega)
    simp only [nibBody, hseed]
    exact ⟨hfirst.append hrest, hagrees'⟩
  | true =>
    simp only [nibBody, hseed]
    exact nibWords_encodes (w :: ws) hseed (he.agrees hseed) (by omega)

/-- The end of a half writes out the pending run: what FlushLong leaves, in a tagged byte (R237). -/
theorem nibEnd_encodes {e : Enc} (hseed : e.seeded = true) : NibEncodes e [] (nibEnd e) := by
  refine Encodes.written hseed hseed rfl ?_
  obtain ⟨k, hk, hlt, hread⟩ := reads_flushLong e.nibLast e.runCnt
  rw [List.append_nil, pendingRun, outBytes_append]
  split
  next hzero =>
    rw [hzero] at hk
    rw [← hk, outBytes_nil, List.append_nil]
    exact hread
  next hpending =>
    have hpos : (flushLong e.runCnt).2.toNat ≠ 0 := fun h => hpending (BitVec.eq_of_toNat_eq h)
    have hfield : (((flushLong e.runCnt).2 - 1).setWidth 3).toNat + 1 = (flushLong e.runCnt).2.toNat := by
      bv_omega
    rw [← hk, ← hfield, List.replicate_add, List.replicate_add]
    exact hread.append (reads_tagged e.nibLast (repeatPrev_some _ _))

/-- ENC_NIBBLE over a half emits exactly its samples, and settles (R238). -/
theorem nibHalf_reads {e : Enc} {ws : List Word} (he : BetweenHalves e) (hne : ws ≠ [])
    (hroom : 8 * ws.length < 2 ^ 32) :
    Reads decodeNibbleFrom (remembered Enc.nibLast e) (outBytes (nibHalf e ws).1)
        (ws.flatMap nibbles) (remembered Enc.nibLast (nibHalf e ws).2) ∧
      BetweenHalves (nibHalf e ws).2 := by
  obtain ⟨hbody, hagrees⟩ := nibBody_encodes he hne hroom
  have hhalf := hbody.append (nibEnd_encodes hbody.seeded)
  rw [List.append_nil] at hhalf
  exact ⟨hhalf.reads_of_settled he.settled rfl, rfl, fun _ => hagrees⟩

theorem nibCapture_decodes {e : Enc} {halves : List (List Word)} (he : BetweenHalves e)
    (hhalves : ∀ ws ∈ halves, ws ≠ [] ∧ 8 * ws.length < 2 ^ 32) :
    decodeNibbleFrom (remembered Enc.nibLast e) (outBytes (nibCapture e halves)) =
      some (halves.flatten.flatMap nibbles) := by
  induction halves generalizing e with
  | nil => simp [nibCapture, decodeNibbleFrom]
  | cons ws halves ih =>
    rw [List.forall_mem_cons] at hhalves
    obtain ⟨⟨hne, hroom⟩, hhalves⟩ := hhalves
    obtain ⟨hread, hnext⟩ := nibHalf_reads he hne hroom
    rw [nibCapture, outBytes_append, hread, ih hnext hhalves, List.flatten_cons, List.flatMap_append]
    rfl

/-- Settles O38: each half is read back whole, and the decoder's previous sample is the encoder's. -/
theorem nibbleStreamDecodes : Obligations.NibbleStreamDecodes := fun _ hhalves =>
  nibCapture_decodes (e := Enc.reset) ⟨rfl, fun h => by cases h⟩ hhalves

/-! ## The byte alphabet (R102, R103, R110) -/

/-- A run byte repeats the previous sample as often as `RunOf` of its code says. -/
theorem reads_byteRun {n k : Nat} (t u : Nat) (hlo : 48 ≤ n) (hhi : n ≤ 127)
    (hk : (if n ≤ 79 then n - 47 else (n - 78) * 32) = k) :
    Reads (decodeByteFrom t 0) (some u) [runByte (BitVec.ofNat 7 n)] (List.replicate k u) (some u) := by
  intro rest
  have hvalue : (runByte (BitVec.ofNat 7 n)).toNat = n := by
    rw [runByte_toNat, BitVec.toNat_ofNat]
    omega
  have hrun : runOf (runByte (BitVec.ofNat 7 n)) = k := by rw [runOf, hvalue]; exact hk
  rw [List.singleton_append, decodeByteFrom, hvalue, if_neg (by omega), if_pos hlo, hrun,
    repeatPrev_some, Option.bind_some]

theorem reads_directRun {k : Nat} (t u : Nat) (hlo : 1 ≤ k) (hhi : k ≤ 32) :
    Reads (decodeByteFrom t 0) (some u) [runByte (BitVec.ofNat 7 (47 + k))] (List.replicate k u)
      (some u) :=
  reads_byteRun t u (by omega) (by omega) (by rw [if_pos (by omega), Nat.add_sub_cancel_left])

/-- The smallest stepped code, 79, is also the largest direct one, and stands for 32 either way. -/
theorem reads_steppedRun {k : Nat} (t u : Nat) (hlo : 1 ≤ k) (hhi : k ≤ 49) :
    Reads (decodeByteFrom t 0) (some u) [runByte (BitVec.ofNat 7 (78 + k))]
      (List.replicate (k * 32) u) (some u) :=
  reads_byteRun t u (by omega) (by omega) (by split <;> omega)

theorem directRest_cases (r : Nat) :
    (32 < r ∧ directRest r = r % 32) ∨ (r ≤ 32 ∧ directRest r = r) := by
  unfold directRest
  split
  next h => exact .inl ⟨h, rfl⟩
  next h => exact .inr ⟨Nat.not_lt.1 h, rfl⟩

/-- EmitRun writes out the whole run (R256). -/
theorem reads_runOps (t u n : Nat) :
    Reads (decodeByteFrom t 0) (some u) (outBytes (runOps n)) (List.replicate n u) (some u) := by
  have hcases := directRest_cases (n % 1568)
  have hsplit : List.replicate n u = List.replicate (n / 1568 * 1568) u
      ++ List.replicate (n % 1568 - directRest (n % 1568)) u ++ List.replicate (directRest (n % 1568)) u := by
    rw [← List.replicate_add, ← List.replicate_add]
    congr 1
    omega
  have hlong := (reads_steppedRun t u (k := 49) (by decide) (by decide)).replicate (n / 1568)
  rw [outBytes_runOps, hsplit]
  refine (Reads.append hlong (Reads.optional (fun h => ?_) fun h => ?_)).append
    (Reads.optional (fun h => ?_) fun h => ?_)
  · have hstep : n % 1568 - directRest (n % 1568) = n % 1568 / 32 * 32 := by omega
    rw [hstep]
    exact reads_steppedRun t u (by omega) (by omega)
  · omega
  · exact reads_directRun t u (by omega) (by omega)
  · omega

theorem decodeByteFrom_skip (t : Nat) (prev : Option Nat) (bytes rest : List Byte) :
    decodeByteFrom t bytes.length prev (bytes ++ rest) = decodeByteFrom t 0 prev rest := by
  induction bytes with
  | nil => rfl
  | cons b bytes ih => rw [List.length_cons, List.cons_append, decodeByteFrom, ih]

/-- The group bytes of a sample give its value. -/
theorem reads_groups {bytes : List Byte} (prev : Option Nat) (hne : bytes ≠ [])
    (hdata : ∀ b ∈ bytes, 0x80 ≤ b.toNat) :
    Reads (decodeByteFrom bytes.length 0) prev bytes [groupValue bytes] (some (groupValue bytes)) := by
  intro rest
  obtain ⟨b, bs, rfl⟩ := List.exists_cons_of_ne_nil hne
  have htake : (b :: (bs ++ rest)).take (b :: bs).length = b :: bs :=
    List.take_left (l₁ := b :: bs)
  have hband : (b :: bs).any (fun g => !isInBand g) = false := by
    refine List.any_eq_false.2 fun g hg => ?_
    have hhigh := hdata g hg
    simp only [isInBand, Bool.not_eq_true', decide_eq_false_iff_not]
    omega
  have henough : ¬ (bs ++ rest).length + 1 < (b :: bs).length := by
    simp
  rw [List.cons_append, decodeByteFrom, if_pos (hdata b List.mem_cons_self), htake, hband,
    if_neg Bool.false_ne_true, if_neg henough]
  have hskip := decodeByteFrom_skip (b :: bs).length (some (groupValue (b :: bs))) bs rest
  simp only [List.length_cons, Nat.add_sub_cancel] at hskip ⊢
  rw [hskip]
  rfl

theorem outBytes_groupOps_length (t : Nat) (v : Word) : (outBytes (groupOps t v)).length = t := by
  simp [outBytes_groupOps]

/-- The groups of seven bits make up the sample modulo `2^(7t)` (R102). -/
theorem groupValue_groupOps (t : Nat) (v : Word) :
    groupValue (outBytes (groupOps t v)) = v.toNat % 2 ^ (7 * t) := by
  induction t generalizing v with
  | zero => simp [groupOps, groupValue, Nat.mod_one]
  | succ t ih =>
    have hcons : outBytes (groupOps (t + 1) v) =
        dataByte (v.setWidth 7) :: outBytes (groupOps t (v >>> 7)) := by
      rw [outBytes_groupOps, outBytes_groupOps, List.range_succ_eq_map, List.map_cons, List.map_map]
      simp [Function.comp_def, Nat.mul_succ, ← BitVec.shiftRight_add, Nat.add_comm]
    have hvalue : groupValue (outBytes (groupOps (t + 1) v)) =
        (dataByte (v.setWidth 7)).toNat % 128 + 128 * groupValue (outBytes (groupOps t (v >>> 7))) := by
      rw [hcons]
      rfl
    rw [hvalue, ih, dataByte_toNat, BitVec.toNat_setWidth, BitVec.toNat_ushiftRight,
      Nat.shiftRight_eq_div_pow, Nat.mul_succ, Nat.add_comm (7 * t) 7, Nat.pow_add, Nat.mod_mul]
    omega

/-- A sample as the byte alphabet carries it: modulo `2^(7t)`. -/
def carried (t : Nat) (v : Word) : Nat := v.toNat % 2 ^ (7 * t)

theorem reads_groupOps {t : Nat} (ht : 1 ≤ t) (prev : Option Nat) (v : Word) :
    Reads (decodeByteFrom t 0) prev (outBytes (groupOps t v)) [carried t v] (some (carried t v)) := by
  have hlen := outBytes_groupOps_length t v
  have hne : outBytes (groupOps t v) ≠ [] := List.ne_nil_of_length_pos (by omega)
  have hread := reads_groups prev hne (groupOps_dataBytes t v)
  rwa [hlen, groupValue_groupOps] at hread

/-! ## ENC_BYTE (R252 to R257) -/

/-- The previous sample of the encoder as the decoder remembers it. -/
def carriedLast (t : Nat) (e : Enc) : Nat := carried t e.valLast

/-- What ENC_BYTE emits with `t` group bytes a sample, read by the reference decoder. -/
abbrev ByteEncodes (t : Nat) (e : Enc) (vs : List Word) (r : List Instr × Enc) : Prop :=
  Encodes (decodeByteFrom t 0) (carriedLast t) e (vs.map (carried t)) r

theorem byteStep_encodes {t : Nat} {e : Enc} (ht : 1 ≤ t) (v : Word) (hseed : e.seeded = true)
    (hroom : e.runCnt.toNat + 1 < 2 ^ 32) : ByteEncodes t e [v] (byteStep t e v) := by
  unfold byteStep
  split
  next hv =>
    exact Encodes.counted (k := 1) hseed (congrArg (carried t) hv) rfl hroom
  next =>
    refine Encodes.written hseed hseed rfl ?_
    have hread := (reads_runOps t (carried t e.valLast) e.runCnt.toNat).append (reads_groupOps ht _ v)
    have hflush : outBytes [.thresholdFlush] = [] := rfl
    rw [outBytes_append, outBytes_append, hflush, List.append_nil]
    exact hread

theorem byteSamples_encodes {t : Nat} {e : Enc} (ht : 1 ≤ t) (vs : List Word) (hseed : e.seeded = true)
    (hroom : e.runCnt.toNat + vs.length < 2 ^ 32) : ByteEncodes t e vs (byteSamples t e vs) := by
  induction vs generalizing e with
  | nil => exact Encodes.nil hseed
  | cons v vs ih =>
    rw [List.length_cons] at hroom
    have hstep := byteStep_encodes ht v hseed (by omega)
    have hcount : (byteStep t e v).2.runCnt.toNat ≤ e.runCnt.toNat + 1 := hstep.count
    exact hstep.append (ih hstep.seeded (by omega))

theorem byteSeed_encodes {t : Nat} {e : Enc} (ht : 1 ≤ t) (v : Word) (hcount : e.runCnt = 0) :
    ByteEncodes t e [v] (byteSeed t e v) := by
  refine ⟨rfl, Nat.zero_le _, [carried t v], reads_groupOps ht _ v, ?_⟩
  simp [pendingRun, hcount, byteSeed]

theorem byteBody_encodes {t : Nat} {e : Enc} {vs : List Word} (ht : 1 ≤ t) (hcount : e.runCnt = 0)
    (hne : vs ≠ []) (hroom : vs.length < 2 ^ 32) : ByteEncodes t e vs (byteBody t e vs) := by
  have hzero : e.runCnt.toNat = 0 := by rw [hcount]; rfl
  obtain ⟨v, vs, rfl⟩ := List.exists_cons_of_ne_nil hne
  cases hseed : e.seeded with
  | false =>
    have hfirst := byteSeed_encodes ht v hcount
    have hseeded : (byteSeed t e v).2.runCnt.toNat = 0 := rfl
    rw [List.length_cons] at hroom
    simp only [byteBody, hseed]
    exact hfirst.append (byteSamples_encodes ht vs hfirst.seeded (by omega))
  | true =>
    simp only [byteBody, hseed]
    exact byteSamples_encodes ht (v :: vs) hseed (by omega)

theorem byteEnd_encodes {t : Nat} {e : Enc} (hseed : e.seeded = true) :
    ByteEncodes t e [] (byteEnd e) := by
  refine Encodes.written hseed hseed rfl ?_
  rw [List.map_nil, List.append_nil]
  exact reads_runOps t (carried t e.valLast) e.runCnt.toNat

/-- ENC_BYTE over a half emits exactly its samples, and settles (R257). -/
theorem byteHalf_reads {t : Nat} {e : Enc} {vs : List Word} (ht : 1 ≤ t) (hcount : e.runCnt = 0)
    (hne : vs ≠ []) (hroom : vs.length < 2 ^ 32) :
    Reads (decodeByteFrom t 0) (remembered (carriedLast t) e) (outBytes (byteHalf t e vs).1)
      (vs.map (carried t)) (remembered (carriedLast t) (byteHalf t e vs).2) := by
  have hbody := byteBody_encodes ht hcount hne hroom
  have hhalf := hbody.append (byteEnd_encodes hbody.seeded)
  rw [List.map_nil, List.append_nil] at hhalf
  exact hhalf.reads_of_settled hcount rfl

theorem byteCapture_decodes {t : Nat} {e : Enc} {halves : List (List Word)} (ht : 1 ≤ t)
    (hcount : e.runCnt = 0) (hhalves : ∀ vs ∈ halves, vs ≠ [] ∧ vs.length < 2 ^ 32) :
    decodeByteFrom t 0 (remembered (carriedLast t) e) (outBytes (byteCapture t e halves)) =
      some (halves.flatten.map (carried t)) := by
  induction halves generalizing e with
  | nil => simp [byteCapture, decodeByteFrom]
  | cons vs halves ih =>
    rw [List.forall_mem_cons] at hhalves
    obtain ⟨⟨hne, hroom⟩, hhalves⟩ := hhalves
    have hsettled : (byteHalf t e vs).2.runCnt = 0 := rfl
    rw [byteCapture, outBytes_append, byteHalf_reads ht hcount hne hroom, ih hsettled hhalves,
      List.flatten_cons, List.map_append]
    rfl

/-- Settles O39: each half is read back whole; values and previous values are compared modulo `2^(7t)`. -/
theorem byteStreamDecodes : Obligations.ByteStreamDecodes := fun _ _ ht hhalves =>
  byteCapture_decodes (e := Enc.reset) ht rfl hhalves

/-! ## INTERLEAVE (R104, R272) -/

theorem decodeSlices_cons {t n : Nat} {groups ana : List Byte} (hgroups : groups.length = t)
    (hana : ana.length = n) (slices : Nat) (rest : List Byte) :
    decodeSlices t n (slices + 1) (groups ++ ana ++ rest) =
      (groupValue groups, ana.map fun b => b.toNat % 128 * 2) :: decodeSlices t n slices rest := by
  subst hgroups hana
  have htake : (groups ++ ana ++ rest).take groups.length = groups := by simp
  have hana : ((groups ++ ana ++ rest).drop groups.length).take ana.length = ana := by simp
  have hdrop : (groups ++ ana ++ rest).drop (groups.length + ana.length) = rest := by
    rw [← List.length_append, List.drop_left]
  rw [decodeSlices, htake, hana, hdrop]

/-- Clearing the least significant bit of a byte is halving and doubling it. -/
theorem and_fe_of_lt {m : Nat} (h : m < 256) : m &&& 0xFE = m / 2 * 2 := by
  have hhalf : (m &&& 0xFE) / 2 = m / 2 % 2 ^ 7 := by
    rw [Nat.and_div_two]
    exact Nat.and_two_pow_sub_one_eq_mod (m / 2) 7
  have hlow : (m &&& 0xFE) % 2 ^ 1 = 0 := by
    rw [Nat.and_mod_two_pow]
    exact Nat.and_zero _
  omega

/-- The seven bits of an analog byte are the conversion without its least significant bit. -/
theorem analogBytes_values {ana : List Word} (h : ∀ a ∈ ana, a.toNat < 256) :
    (analogBytes ana).map (fun b => b.toNat % 128 * 2) = ana.map fun a => (a &&& 0xFE).toNat := by
  rw [analogBytes, List.map_map]
  refine List.map_congr_left fun a ha => ?_
  have hlt := h a ha
  have hvalue : (dataByte ((a >>> 1).setWidth 7)).toNat % 128 = a.toNat / 2 := by
    rw [dataByte_toNat, BitVec.toNat_setWidth, BitVec.toNat_ushiftRight, Nat.shiftRight_eq_div_pow]
    omega
  rw [Function.comp_apply, hvalue, ← and_fe_of_lt hlt]
  rfl

/-- The bytes of the slices of an INTERLEAVE stream; without digital channels a slice has no group bytes. -/
def streamBytes (t : Nat) (slices : List (Word × List Word)) : List Byte :=
  slices.flatMap fun x => outBytes (groupOps t x.1) ++ analogBytes x.2

theorem streamBytes_cons (t : Nat) (x : Word × List Word) (slices : List (Word × List Word)) :
    streamBytes t (x :: slices) =
      outBytes (groupOps t x.1) ++ analogBytes x.2 ++ streamBytes t slices := List.flatMap_cons

theorem outBytes_slices (t : Nat) (slices : List (Word × List Word)) :
    outBytes (slices.flatMap fun x => sliceOut t (if t = 0 then none else some x.1) x.2) =
      streamBytes t slices := by
  have hslice : ∀ x : Word × List Word,
      outBytes (sliceOut t (if t = 0 then none else some x.1) x.2) =
        outBytes (groupOps t x.1) ++ analogBytes x.2 := by
    intro x
    rw [outBytes_sliceOut]
    obtain rfl | ht := Nat.eq_zero_or_pos t
    · rfl
    · rw [if_neg ht.ne']
      rfl
  rw [outBytes, List.flatMap_assoc]
  exact List.flatMap_congr fun x _ => hslice x

theorem streamBytes_inBand (t : Nat) (slices : List (Word × List Word)) :
    ∀ b ∈ streamBytes t slices, isInBand b = true := by
  rw [streamBytes, List.forall_mem_flatMap]
  intro x _
  have hhigh : ∀ b ∈ outBytes (groupOps t x.1) ++ analogBytes x.2, 0x80 ≤ b.toNat :=
    List.forall_mem_append.2 ⟨groupOps_dataBytes t x.1, analogBytes_dataBytes x.2⟩
  exact fun b hb => decide_eq_true (Nat.le_trans (by decide) (hhigh b hb))

theorem streamBytes_length {t n : Nat} {slices : List (Word × List Word)}
    (h : ∀ x ∈ slices, x.2.length = n) : (streamBytes t slices).length = slices.length * (t + n) := by
  induction slices with
  | nil => simp [streamBytes]
  | cons x slices ih =>
    rw [List.forall_mem_cons] at h
    obtain ⟨hx, h⟩ := h
    rw [streamBytes_cons, List.length_append, List.length_append, ih h, outBytes_groupOps_length,
      analogBytes, List.length_map, hx, List.length_cons, Nat.succ_mul, Nat.add_comm]

theorem decodeSlices_streamBytes {t n : Nat} {slices : List (Word × List Word)}
    (hlen : ∀ x ∈ slices, x.2.length = n) (hbyte : ∀ x ∈ slices, ∀ a ∈ x.2, a.toNat < 256) :
    decodeSlices t n slices.length (streamBytes t slices) =
      slices.map fun x => (x.1.toNat % 2 ^ (7 * t), x.2.map fun a => (a &&& 0xFE).toNat) := by
  induction slices with
  | nil => rfl
  | cons x slices ih =>
    rw [List.forall_mem_cons] at hlen hbyte
    obtain ⟨hx, hlen⟩ := hlen
    obtain ⟨hxb, hbyte⟩ := hbyte
    have hana : (analogBytes x.2).length = n := by simpa [analogBytes] using hx
    rw [streamBytes_cons, List.length_cons, decodeSlices_cons (outBytes_groupOps_length t x.1) hana,
      groupValue_groupOps, analogBytes_values hxb, ih hlen hbyte, List.map_cons]

/-- Settles O40: no byte stops the decoder, the bytes divide into as many slices as there were, and each gives
its samples back. -/
theorem interleaveStreamDecodes : Obligations.InterleaveStreamDecodes := by
  intro t n slices hn hlen hbyte
  have hband : (streamBytes t slices).takeWhile isInBand = streamBytes t slices :=
    List.takeWhile_eq_self_iff.2 (streamBytes_inBand t slices)
  rw [outBytes_slices, decodeInterleave, hband, streamBytes_length hlen,
    Nat.mul_div_cancel _ (by omega), decodeSlices_streamBytes hlen hbyte]

end Sys2Proof.Machine
end

section
/-! PROOFS. Proofs/Commands.lean: the commands that write a register of the Session, the parser step, DISPATCH
(spec/40_commands.md), and the step of SEQ_B that ends a received line (spec/47_scheduler.md rule R316). -/

namespace Sys2Proof.Machine

/-! ## AEN and DEN (R143, R144) -/

/-- One bit of a mask is written and the others stay. -/
theorem writeMaskBit_getLsbD {w i : Nat} (mask : BitVec w) (on : Bool) (ch : Nat) (hi : i < w) :
    (writeMaskBit mask on ch).getLsbD i = if i = ch then on else mask.getLsbD i := by
  have hbit : (BitVec.twoPow w ch).getLsbD i = decide (i = ch) := by
    rw [BitVec.getLsbD_twoPow, Bool.eq_iff_iff, Bool.and_eq_true, decide_eq_true_iff,
      decide_eq_true_iff, decide_eq_true_iff]
    omega
  have hwrite : (writeMaskBit mask on ch).getLsbD i =
      if on then mask.getLsbD i || decide (i = ch) else mask.getLsbD i && !decide (i = ch) := by
    rw [← hbit]
    cases on with
    | true => exact BitVec.getLsbD_or
    | false =>
      simp only [writeMaskBit, ← BitVec.twoPow_eq, BitVec.getLsbD_and, BitVec.getLsbD_not, hi,
        decide_true, Bool.true_and, Bool.false_eq_true, if_false]
  rw [hwrite]
  by_cases h : i = ch <;> cases on <;> simp [h]

theorem exec_aen_of_operands {args : List Byte} {on : Bool} {ch : Nat} (s : State)
    (h : parseEnableChannel args = some (on, ch)) :
    exec (.aen args) s =
      if ch < 3 then .next { s with session.analogMask := writeMaskBit s.session.analogMask on ch }
      else .next (setRsp s []) := by
  simp only [exec, execAen, h]
  rfl

theorem exec_den_of_operands {args : List Byte} {on : Bool} {ch : Nat} (s : State)
    (h : parseEnableChannel args = some (on, ch)) :
    exec (.den args) s =
      if ch < 21 then .next { s with session.digitalMask := writeMaskBit s.session.digitalMask on ch }
      else .next (setRsp s []) := by
  simp only [exec, execDen, h]
  rfl

theorem exec_aen_of_malformed {args : List Byte} (s : State) (h : parseEnableChannel args = none) :
    exec (.aen args) s = .next (setRsp s []) := by
  simp only [exec, execAen, h]

theorem exec_den_of_malformed {args : List Byte} (s : State) (h : parseEnableChannel args = none) :
    exec (.den args) s = .next (setRsp s []) := by
  simp only [exec, execDen, h]

/-- Settles O12: the channel is compared with the number of channels, and the mask is written by
`writeMaskBit_getLsbD`. -/
theorem maskCommandsWriteOneBit : Obligations.MaskCommandsWriteOneBit := by
  intro args s
  refine ⟨fun on ch hparse => ?operands,
    fun hparse => ⟨exec_aen_of_malformed s hparse, exec_den_of_malformed s hparse⟩⟩
  rw [exec_aen_of_operands s hparse, exec_den_of_operands s hparse]
  refine ⟨fun hch => ?analog, fun hch => if_neg (Nat.not_lt.2 hch), fun hch => ?digital,
    fun hch => if_neg (Nat.not_lt.2 hch)⟩
  case analog =>
    exact ⟨_, if_pos hch, rfl, fun i hi => writeMaskBit_getLsbD s.session.analogMask on ch hi⟩
  case digital =>
    exact ⟨_, if_pos hch, rfl, fun i hi => writeMaskBit_getLsbD s.session.digitalMask on ch hi⟩

/-! ## RATE and LIMIT (R138, R139) -/

theorem exec_rate_of_value {args : List Byte} {v : Nat} (s : State) (h : parseDec args = some v) :
    exec (.rate args) s =
      if 5000 ≤ v ∧ v ≤ 120000016 then
        .next { s with session.sampleRate := BitVec.ofNat 32 v }
      else .next s := by
  simp only [exec, execRate, h]
  rfl

theorem exec_rate_of_malformed {args : List Byte} (s : State) (h : parseDec args = none) :
    exec (.rate args) s = .next s := by
  simp only [exec, execRate, h]

/-- Settles O10: a value in the range fits its register. -/
theorem rateStoresValueInRange : Obligations.RateStoresValueInRange := by
  intro args s
  refine ⟨fun v hparse hmin hmax => ?inside, fun v hparse hout => ?outside, exec_rate_of_malformed s⟩
  case inside =>
    rw [exec_rate_of_value s hparse]
    exact ⟨_, if_pos ⟨hmin, hmax⟩, Nat.mod_eq_of_lt (by omega), rfl⟩
  case outside =>
    rw [exec_rate_of_value s hparse]
    exact if_neg (by omega)

theorem exec_limit_of_value {args : List Byte} {v : Nat} (s : State) (h : parseDec args = some v) :
    exec (.limit args) s =
      if 1 ≤ v ∧ v ≤ 2 ^ 32 - 1 then .next { s with session.numSamples := BitVec.ofNat 32 v }
      else .next (setRsp s []) := by
  simp only [exec, execLimit, h]

theorem exec_limit_of_malformed {args : List Byte} (s : State) (h : parseDec args = none) :
    exec (.limit args) s = .next (setRsp s []) := by
  simp only [exec, execLimit, h]

/-- Settles O11: a value in the range fits its register. -/
theorem limitStoresPositiveValue : Obligations.LimitStoresPositiveValue := by
  intro args s
  refine ⟨fun v hparse hmin hmax => ?inside, fun v hparse hout => ?outside, exec_limit_of_malformed s⟩
  case inside =>
    rw [exec_limit_of_value s hparse]
    exact ⟨_, if_pos ⟨hmin, by omega⟩, Nat.mod_eq_of_lt (by omega), rfl⟩
  case outside =>
    rw [exec_limit_of_value s hparse]
    exact if_neg (by omega)

/-! ## FIXED and CONT (R141, R142) -/

theorem planOp_answers {s : State} (h : s.params.arenaOk = true) :
    planOp s = .next { s with session := planSession s.params s.session } := planOp_next.2 ⟨h, rfl⟩

theorem startCapture_of_plan {s u : State} {cont : Bool}
    (h : planOp { s with session.continuous := cont } = .next u) :
    startCapture s cont = .next { u with
      session.armReqSeq := u.session.armReqSeq + 1, session.rsp := [] } := by
  simp only [startCapture, h, andThen_next, setRsp]

theorem exec_startCommand (cont : Bool) (args : List Byte) (s : State) :
    exec (if cont then .cont args else .fixed args) s = startCapture s cont := by
  cases cont <;> rfl

/-- Raising the request number where it equals the acknowledged one makes a request pending (R30). -/
theorem armPending_of_raised {s t : State} (hreq : t.session.armReqSeq = s.session.armReqSeq + 1)
    (hack : t.session.armAckSeq = s.session.armAckSeq) (h : armPending s = false) :
    armPending t = true := by
  simp only [armPending, bne_eq_false_iff_eq, bne_iff_ne] at *
  rw [hreq, hack, h]
  bv_omega

/-- Settles O13: PLAN answers, and it writes no register of the handshake. -/
theorem startCommandsPlanAndRequest : Obligations.StartCommandsPlanAndRequest := by
  intro args s harena cont
  have hplan := planOp_answers (s := { s with session.continuous := cont }) harena
  obtain ⟨hreq, hack, -, -, -, hcont, -⟩ :=
    planSession_keeps s.params { s.session with continuous := cont }
  refine ⟨_, _, hplan, (exec_startCommand cont args s).trans (startCapture_of_plan hplan), ?_, hcont,
    hack, armPending_of_raised (congrArg (· + 1) hreq) hack⟩
  rw [hreq]

/-! ## The parser step (R131, R133) -/

theorem parserStep_emptyLine {c : Byte} {s : State} (hc : isTerminator c = true)
    (hempty : s.session.cmdBuf.live = []) : exec (.parserStep c) s = exec .emptyLine s := by
  simp only [exec, execParserStep, hc, hempty, if_true]

theorem parserStep_overflow {c : Byte} {s : State} (hc : isTerminator c = false)
    (hfull : s.session.cmdBuf.live.length = s.params.cmdbufCapacity) :
    exec (.parserStep c) s = .next (clearCmd s) := by
  simp only [exec, execParserStep, hc, hfull, Bool.false_eq_true, if_false, if_true]

theorem isTerminator_eq_false {c : Byte} (hcr : c ≠ 0x0D) (hlf : c ≠ 0x0A) :
    isTerminator c = false := by
  rw [Bool.eq_false_iff, ne_eq, isTerminator_iff]
  exact not_or.2 ⟨hcr, hlf⟩

/-- Settles O15: one lemma for each case of the parser step. -/
theorem parserStepCases : Obligations.ParserStepCases := fun c _ _ =>
  ⟨fun hc hempty => parserStep_emptyLine ((isTerminator_iff c).2 hc) hempty,
    fun hc hline => parserStep_terminator ((isTerminator_iff c).2 hc) hline,
    fun hcr hlf hfull => parserStep_overflow (isTerminator_eq_false hcr hlf) hfull,
    fun hcr hlf hroom => parserStep_lineChar (isTerminator_eq_false hcr hlf) hroom⟩

/-! ## DISPATCH (R134, R135) -/

/-- The command that DISPATCH runs is the operation of the line's instruction. -/
theorem runLineCommand_decodeLine (op : Byte) (args : List Byte) (s : State) :
    runLineCommand (decodeLine op args) s = exec (decodeLine op args) s := by
  unfold decodeLine
  repeat' split
  all_goals rfl

theorem dispatchLine_cons (op : Byte) (args : List Byte) (s : State) :
    dispatchLine (op :: args) s =
      andThen (exec (decodeLine op args) (setRsp s ackBytes)) fun t => .next (respond t) := by
  rw [dispatchLine, runLineCommand_decodeLine]

/-- Whichever operation transmits a response, it is one uncounted Send of it on SEQ_B (log 27). -/
theorem responseOp_sends (rsp : List Byte) (u : State) :
    responseOp u.params rsp = .send .b .entry rsp false ∨
      exec (responseOp u.params rsp) u = .next (u.pushB [.send .b .entry rsp false]) := by
  unfold responseOp
  split
  next hack =>
    subst hack
    exact .inr rfl
  next =>
    split
    next hident =>
      subst hident
      exact .inr rfl
    next => exact .inl rfl

/-- Settles O17: the command's response decides whether `respond` queues anything, and `responseOp_sends` says
what the queued operation sends. -/
theorem dispatchRunsCommandAndAnswers : Obligations.DispatchRunsCommandAndAnswers := by
  intro s
  refine ⟨fun op args t hrun => ?line, rfl⟩
  have hdispatch : exec (.dispatch (.line (op :: args))) s = .next (respond t) :=
    dispatchLine_of_next ((runLineCommand_decodeLine op args _).trans hrun)
  rw [hdispatch]
  obtain ⟨hrsp, hrespond⟩ | ⟨hrsp, hrespond⟩ := respond_cases t <;> rw [hrespond]
  · exact ⟨fun _ => rfl, fun hne => absurd hrsp hne⟩
  · refine ⟨fun hempty => absurd hempty hrsp, fun _ => ⟨_, rfl, fun u hu => ?_⟩⟩
    rw [← hu]
    exact responseOp_sends t.session.rsp u

/-! ## The step that ends a line (R131, R316, R317) -/

/-- A stream whose first instruction uses it up has accumulated all but its last character. -/
theorem decodeAccumulated_of_whole {p : Params} {acc line : List Byte} {c : Byte} {i : Instr}
    (h : decodeAccumulated p acc (line ++ [c]) = .ok (i, [])) :
    decodeAccumulated p (acc ++ line) [c] = .ok (i, []) := by
  induction line generalizing acc with
  | nil => simpa using h
  | cons x line ih =>
    simp only [List.cons_append, decodeAccumulated] at h
    split at h
    next => simp at h
    next =>
      split at h
      next => cases acc <;> simp at h
      next =>
        split at h
        next => cases h
        next => simpa using ih h

theorem decodeCommand_of_whole {p : Params} {line : List Byte} {c : Byte} {i : Instr}
    (h : decodeCommand p (line ++ [c]) = .ok (i, [])) : decodeAccumulated p line [c] = .ok (i, []) :=
  decodeAccumulated_of_whole h

/-- The one character that completes an instruction is RESET_CHAR or a terminator. -/
theorem decodeAccumulated_last {p : Params} {acc : List Byte} {c : Byte} {i : Instr}
    (h : decodeAccumulated p acc [c] = .ok (i, [])) :
    (c = Config.resetChar ∧ i = .reset) ∨
    (c ≠ Config.resetChar ∧ isTerminator c = true ∧
      ((acc = [] ∧ i = .emptyLine) ∨ ∃ op args, acc = op :: args ∧ i = decodeLine op args)) := by
  simp only [decodeAccumulated] at h
  split at h
  next hreset =>
    cases h
    exact .inl ⟨hreset, rfl⟩
  next hreset =>
    split at h
    next hterm =>
      refine .inr ⟨hreset, hterm, ?_⟩
      cases acc with
      | nil =>
        cases h
        exact .inl ⟨rfl, rfl⟩
      | cons op args =>
        cases h
        exact .inr ⟨op, args, rfl, rfl⟩
    next =>
      split at h
      next => cases h
      next => cases h

/-- While no capture is active, SEQ_B with nothing left to do routes the next character (R316). -/
theorem step_routes {s : State} {c : Byte} {rest : List Byte} (harena : s.params.arenaOk = true)
    (hagent : (takeInputs s).env.agent = .seqB) (htodo : s.seqB.todo = [])
    (hidle : captureActive s = false) (hrx : s.port.rx = c :: rest) :
    step s = exec (.route c) { takeInputs s with port.rx := rest, seqB := ⟨.top, []⟩ } := by
  have hsame := takeInputs_same s
  have htodo' : (takeInputs s).seqB.todo = [] := by rw [hsame]; exact htodo
  have hidle' : captureActive (takeInputs s) = false := by rw [hsame]; exact hidle
  have hrx' : (takeInputs s).port.rx = c :: rest := by rw [hsame]; exact hrx
  have haction : nextAction (takeInputs s) = takeChar (takeInputs s) := by
    simp only [nextAction, hagent, actionB, htodo', hidle', Bool.false_eq_true, if_false]
    cases (takeInputs s).seqB.pos <;> rfl
  simp only [step, harena, if_true, haction, takeChar, hrx', runAction]

theorem exec_route_parser {c : Byte} {s : State} (hreset : c ≠ Config.resetChar)
    (hidle : captureActive s = false) : exec (.route c) s = exec (.parserStep c) s := by
  simp only [exec, execRoute, hreset, hidle, Bool.false_eq_true, if_false]

theorem clearCmd_respond (t : State) :
    clearCmd (respond t) = { respond t with session.cmdBuf := t.session.cmdBuf.clear } := by
  obtain ⟨-, h⟩ | ⟨-, h⟩ := respond_cases t <;> rw [h] <;> rfl

/-- A terminator after a line runs the line's instruction, responds, and empties the command buffer. -/
theorem parserStep_runs_line {c op : Byte} {args : List Byte} {s : State} (hc : isTerminator c = true)
    (hline : s.session.cmdBuf.live = op :: args) :
    exec (.parserStep c) s = andThen (exec (decodeLine op args) (setRsp s ackBytes)) fun t =>
      .next { respond t with session.cmdBuf := t.session.cmdBuf.clear } := by
  have hdispatch : exec (.dispatch (.line (op :: args))) s =
      andThen (exec (decodeLine op args) (setRsp s ackBytes)) fun t => .next (respond t) :=
    dispatchLine_cons op args s
  rw [parserStep_terminator hc (by simp [hline]), hline, hdispatch, andThen_assoc]
  simp only [andThen_next, clearCmd_respond]

/-- Settles O51: the last character decides which instruction the characters decode to, and where ROUTE sends
it. -/
theorem stepRunsDecodedCommand : Obligations.StepRunsDecodedCommand := by
  intro s c rest i harena hagent htodo hidle hrx hdecode u
  have hsession : u.session = s.session := by
    show (takeInputs s).session = s.session
    rw [takeInputs_same]
  have hidle_u : captureActive u = false := by
    rw [captureActive_congr (s := s) (by rw [hsession]) (by rw [hsession]) (by rw [hsession])]
    exact hidle
  rw [step_routes harena hagent htodo hidle hrx]
  obtain ⟨hreset, rfl⟩ | ⟨hreset, hterm, hcommand⟩ :=
    decodeAccumulated_last (decodeCommand_of_whole hdecode)
  · subst hreset
    exact ⟨fun _ => rfl, fun hne => absurd rfl hne⟩
  rw [exec_route_parser hreset hidle_u]
  obtain ⟨hempty, rfl⟩ | ⟨op, args, hline, rfl⟩ := hcommand
  · exact ⟨fun _ => parserStep_emptyLine hterm (by rw [hsession, hempty]),
      fun _ hne => absurd hempty hne⟩
  · refine ⟨fun hor => ?_, fun _ _ => parserStep_runs_line hterm (by rw [hsession, hline])⟩
    exact (hor.elim hreset fun hempty => List.cons_ne_nil _ _ (hline.symm.trans hempty)).elim

end Sys2Proof.Machine
end

section
/-! PROOFS. Proofs/Planner.lean: PLAN (spec/41_buffer_planner.md). First what PLAN derives from the request,
then the chunk and the halves as naturals, then the registers that hold them. -/

namespace Sys2Proof.Machine

/-! ## The request (R171, R172) -/

/-- Clearing the low bits of a word rounds it down to a multiple of their weight. -/
theorem toNat_and_not_lowBits (x : Word) (k : Nat) :
    (x &&& ~~~BitVec.ofNat 32 (2 ^ k - 1)).toNat = 2 ^ k * (x.toNat / 2 ^ k) := by
  have hshift : x &&& ~~~BitVec.ofNat 32 (2 ^ k - 1) = x >>> k <<< k := by
    ext i hi
    have hmask : (BitVec.ofNat 32 (2 ^ k - 1))[i] = decide (i < k) := by
      rw [← BitVec.getLsbD_eq_getElem, BitVec.getLsbD_ofNat, Nat.testBit_two_pow_sub_one,
        decide_eq_true hi, Bool.true_and]
    by_cases hik : i < k
    · simp [hmask, hik]
    · simp [hmask, hik, hi, Nat.add_sub_cancel' (Nat.le_of_not_lt hik)]
  rw [hshift, BitVec.toNat_shiftLeft, BitVec.toNat_ushiftRight, Nat.shiftLeft_eq,
    Nat.shiftRight_eq_div_pow, Nat.mul_comm]
  exact Nat.mod_eq_of_lt ((Nat.mul_div_le x.toNat (2 ^ k)).trans_lt x.isLt)

theorem evenRate_toNat (r : Word) : (evenRate r).toNat = r.toNat - r.toNat % 2 := by
  have hclear : (evenRate r).toNat = 2 ^ 1 * (r.toNat / 2 ^ 1) := toNat_and_not_lowBits r 1
  omega

/-- The saturation of R172 keeps the rounding up from wrapping. -/
theorem roundCount_toNat (n : Word) :
    (roundCount n).toNat = 4 * ((min (max n.toNat 16) 0xFFFFFFFC + 3) / 4) := by
  have hclamp (m lo : Word) : (if m < lo then lo else m).toNat = max m.toNat lo.toNat := by
    split <;> bv_omega
  have hsat (m hi : Word) : (if hi < m then hi else m).toNat = min m.toNat hi.toNat := by
    split <;> bv_omega
  have hclear (m : Word) : ((m + 3) &&& ~~~3#32).toNat = 2 ^ 2 * ((m + 3).toNat / 2 ^ 2) :=
    toNat_and_not_lowBits (m + 3) 2
  have hmin : Config.countMin.toNat = 16 := rfl
  have hmax : (0xFFFFFFFC : Word).toNat = 0xFFFFFFFC := rfl
  have hthree : (3 : Word).toNat = 3 := rfl
  simp only [roundCount, hclear, BitVec.toNat_add, hsat, hclamp, hmin, hmax, hthree]
  omega

theorem sixteen_le_roundCount (n : Word) : 16 ≤ (roundCount n).toNat := by
  rw [roundCount_toNat]
  omega

/-! ## The derived counts (R173) -/

theorem lt_two_pow_hib {w : Nat} (x : BitVec w) : x.toNat < 2 ^ hib x := by
  unfold hib
  split
  next hzero => omega
  next => exact Nat.lt_log2_self

theorem hib_le {w : Nat} (x : BitVec w) : hib x ≤ w := by
  unfold hib
  split
  next => exact Nat.zero_le w
  next hne => exact (Nat.log2_lt hne).2 x.isLt

theorem getLsbD_hib_sub_one {w : Nat} {x : BitVec w} (h : 0 < hib x) :
    x.getLsbD (hib x - 1) = true := by
  unfold hib at h ⊢
  split at h
  next => exact absurd h (Nat.lt_irrefl 0)
  next hne =>
    rw [if_neg hne]
    exact Nat.testBit_log2 hne

theorem getLsbD_of_hib_le {w i : Nat} {x : BitVec w} (h : hib x ≤ i) : x.getLsbD i = false :=
  Nat.testBit_lt_two_pow ((lt_two_pow_hib x).trans_le (Nat.pow_le_pow_right Nat.two_pos h))

theorem dnpsOf_toNat (h : Nat) :
    (dnpsOf h).toNat = if h = 0 then 0 else if h ≤ 4 then 1 else if h ≤ 8 then 2
      else if h ≤ 16 then 4 else 8 := by
  unfold dnpsOf
  split_ifs <;> rfl

theorem popcount_three (x : BitVec 3) :
    popcount x = (x.getLsbD 0).toNat + (x.getLsbD 1).toNat + (x.getLsbD 2).toNat := by
  revert x
  decide

theorem Dnps.toNat_eq_zero {d : Dnps} : d.toNat = 0 ↔ d = .n0 := by
  cases d <;> decide

/-- The registers that steps 1 and 2 write, as naturals; none of the counts overflows its register. -/
theorem planDerive_toNat (v : Session) :
    (planDerive v).digitalCount.toNat = hib v.digitalMask ∧
      (planDerive v).txBytesPerSample.toNat = (hib v.digitalMask + 6) / 7 ∧
      (planDerive v).analogCount.toNat = (v.analogMask.getLsbD 0).toNat
        + (v.analogMask.getLsbD 1).toNat + (v.analogMask.getLsbD 2).toNat := by
  have hbound : hib v.digitalMask ≤ 21 := hib_le v.digitalMask
  refine ⟨Nat.mod_eq_of_lt (by omega), ?tx, ?analog⟩
  case tx =>
    have hceil : ceilDiv (hib v.digitalMask) 7 = (hib v.digitalMask + 6) / 7 := rfl
    rw [← hceil]
    exact Nat.mod_eq_of_lt (by omega)
  case analog =>
    have hbit0 := Bool.toNat_le (v.analogMask.getLsbD 0)
    have hbit1 := Bool.toNat_le (v.analogMask.getLsbD 1)
    have hbit2 := Bool.toNat_le (v.analogMask.getLsbD 2)
    have hanalog := popcount_three v.analogMask
    rw [← hanalog]
    exact Nat.mod_eq_of_lt (by omega)

/-- Steps 3 to 5 write none of the registers that steps 1 and 2 write. -/
theorem planSession_derived (p : Params) (v : Session) :
    (planSession p v).sampleRate = (planDerive v).sampleRate ∧
      (planSession p v).numSamples = (planDerive v).numSamples ∧
      (planSession p v).digitalCount = (planDerive v).digitalCount ∧
      (planSession p v).txBytesPerSample = (planDerive v).txBytesPerSample ∧
      (planSession p v).dnps = (planDerive v).dnps ∧
      (planSession p v).analogCount = (planDerive v).analogCount := by
  unfold planSession
  dsimp only
  split <;> simp [planDegenerate, planGeometry]

/-- Settles O18: `planSession_derived` and `planSession_keeps` say which registers PLAN leaves, and
`planDerive_toNat` what it derives. -/
theorem planNormalisesAndDerives : Obligations.PlanNormalisesAndDerives := by
  intro s harena
  obtain ⟨hrate, hnum, hcount, htx, hdnps, hac⟩ := planSession_derived s.params s.session
  obtain ⟨hreq, hack, hstarted, hsending, haborted, hcont, hsamples, hbytes, hcmd, hrsp, hamask,
    hdmask⟩ := planSession_keeps s.params s.session
  obtain ⟨hcount', htx', hac'⟩ := planDerive_toNat s.session
  refine ⟨_, planOp_answers harena, ?_, ?_,
    ⟨hib s.session.digitalMask, hib_le _, getLsbD_hib_sub_one, fun _ => getLsbD_of_hib_le,
      hcount ▸ hcount', htx ▸ htx', ?_⟩,
    hac ▸ hac', hamask, hdmask, hstarted, hsending, hcont, haborted, hsamples, hbytes, hcmd, hrsp,
    hreq, hack⟩
  · rw [hrate]
    exact evenRate_toNat s.session.sampleRate
  · rw [hnum]
    exact roundCount_toNat s.session.numSamples
  · rw [hdnps]
    exact dnpsOf_toNat (hib s.session.digitalMask)

/-! ## The chunk (R175 to R178) -/

/-- The factor that takes `m` to the least common multiple of `n` and `m`. -/
theorem dvd_div_gcd_mul (n m : Nat) : n ∣ n / Nat.gcd n m * m := by
  rw [Nat.div_mul_right_comm (Nat.gcd_dvd_left n m)]
  exact Nat.dvd_lcm_left n m

theorem eight_dvd_digAlign_mul (dn : Nat) : 8 ∣ digAlign dn * dn := by
  unfold digAlign
  split
  next hzero => exact hzero ▸ Nat.dvd_zero 8
  next => exact dvd_div_gcd_mul 8 dn

theorem four_dvd_anaAlign_mul (ac : Nat) : 4 ∣ anaAlign ac * ac := by
  unfold anaAlign
  split
  next hzero => exact hzero ▸ Nat.dvd_zero 4
  next => exact dvd_div_gcd_mul 4 ac

theorem eight_dvd_chunkSamples_mul (mult dn ac : Nat) : 8 ∣ chunkSamples mult dn ac * dn := by
  have halign : digAlign dn ∣ chunkSamples mult dn ac := (Nat.dvd_lcm_left _ _).mul_right mult
  exact (eight_dvd_digAlign_mul dn).trans (Nat.mul_dvd_mul_right halign dn)

theorem four_dvd_anaChunkBytes (mult dn ac : Nat) : 4 ∣ anaChunkBytes mult dn ac := by
  have halign : anaAlign ac ∣ chunkSamples mult dn ac := (Nat.dvd_lcm_right _ _).mul_right mult
  exact (four_dvd_anaAlign_mul ac).trans (Nat.mul_dvd_mul_right halign ac)

/-- A chunk's digital bytes hold its slices with no nibble left over. -/
theorem two_mul_digChunkBytes (mult dn ac : Nat) :
    2 * digChunkBytes mult dn ac = chunkSamples mult dn ac * dn := by
  have hdvd := eight_dvd_chunkSamples_mul mult dn ac
  unfold digChunkBytes
  omega

theorem four_dvd_digChunkBytes (mult dn ac : Nat) : 4 ∣ digChunkBytes mult dn ac := by
  have hdvd := eight_dvd_chunkSamples_mul mult dn ac
  unfold digChunkBytes
  omega

/-- The bounds of the table of R177: the base chunk of every layout and number of analog channels. -/
theorem baseChunk_bounds (d : Dnps) {ac : Nat} (hac : ac ≤ 3) :
    1 ≤ chunkSamples 1 d.toNat ac ∧ chunkBytes 1 d.toNat ac ≤ 28 := by
  cases d <;> interval_cases ac <;> decide

theorem chunkSamples_eq_mul (mult dn ac : Nat) :
    chunkSamples mult dn ac = chunkSamples 1 dn ac * mult := by
  simp only [chunkSamples, Nat.mul_one]

/-- The bytes of a chunk grow in proportion to CHUNK_MULT (R177). -/
theorem chunkBytes_eq_mul (mult dn ac : Nat) : chunkBytes mult dn ac = chunkBytes 1 dn ac * mult := by
  have hdig := two_mul_digChunkBytes mult dn ac
  have hdig1 := two_mul_digChunkBytes 1 dn ac
  have hmul : digChunkBytes mult dn ac = digChunkBytes 1 dn ac * mult := by
    refine Nat.eq_of_mul_eq_mul_left Nat.two_pos ?_
    rw [hdig, ← Nat.mul_assoc, hdig1, chunkSamples_eq_mul, Nat.mul_right_comm]
  have hana : anaChunkBytes mult dn ac = anaChunkBytes 1 dn ac * mult := by
    simp only [anaChunkBytes, chunkSamples_eq_mul mult, Nat.mul_right_comm]
  rw [chunkBytes, hmul, hana, chunkBytes, Nat.add_mul]


theorem chunkSamples_pos {mult : Nat} (hmult : 1 ≤ mult) (d : Dnps) (ac : BitVec 2) :
    1 ≤ chunkSamples mult d.toNat ac.toNat := by
  rw [chunkSamples_eq_mul]
  exact Nat.mul_pos (baseChunk_bounds d (Nat.le_of_lt_succ ac.isLt)).1 hmult

theorem chunkBytes_le (mult : Nat) (d : Dnps) (ac : BitVec 2) :
    chunkBytes mult d.toNat ac.toNat ≤ 28 * mult := by
  rw [chunkBytes_eq_mul]
  exact Nat.mul_le_mul_right mult (baseChunk_bounds d (Nat.le_of_lt_succ ac.isLt)).2

/-- With a channel enabled, a slice takes at least one nibble (R176). -/
theorem chunkSamples_le_two_mul_chunkBytes (mult : Nat) {dn ac : Nat} (h : dn ≠ 0 ∨ ac ≠ 0) :
    chunkSamples mult dn ac ≤ 2 * chunkBytes mult dn ac := by
  have hdig := two_mul_digChunkBytes mult dn ac
  rw [chunkBytes, Nat.mul_add, hdig]
  obtain hdn | hac := h
  · exact (Nat.le_mul_of_pos_right _ (Nat.pos_of_ne_zero hdn)).trans (Nat.le_add_right _ _)
  · have hana : chunkSamples mult dn ac ≤ anaChunkBytes mult dn ac :=
      Nat.le_mul_of_pos_right _ (Nat.pos_of_ne_zero hac)
    omega

/-! ## The number of chunks (R179) -/

theorem chunksFit_eq (capacity mult dn ac : Nat) :
    chunksFit capacity mult dn ac = capacity / chunkBytes mult dn ac / 2 * 2 := by
  simp only [chunksFit]
  omega

theorem chunksNeeded_eq (count mult dn ac : Nat) :
    chunksNeeded count mult dn ac =
      (ceilDiv count (chunkSamples mult dn ac) + 1) / 2 * 2 := by
  simp only [chunksNeeded]
  omega

/-- Two of the largest chunks fit by R178. -/
theorem two_le_chunksFit {p : Params} (harena : p.arenaOk = true) {d : Dnps} {ac : BitVec 2}
    (henabled : d.toNat ≠ 0 ∨ ac.toNat ≠ 0) :
    2 ≤ chunksFit p.arenaCapacity p.chunkMult d.toNat ac.toNat := by
  obtain ⟨hmult, hcapacity⟩ := (arenaOk_iff p).1 harena
  have hsamples := chunkSamples_pos hmult d ac
  have hnibble := chunkSamples_le_two_mul_chunkBytes p.chunkMult henabled
  have hlargest := chunkBytes_le p.chunkMult d ac
  have hfit : 2 ≤ p.arenaCapacity / chunkBytes p.chunkMult d.toNat ac.toNat :=
    (Nat.le_div_iff_mul_le (by omega)).2 (by omega)
  rw [chunksFit_eq]
  omega

theorem le_chunksNeeded_mul (count mult : Nat) {dn ac : Nat} (h : 1 ≤ chunkSamples mult dn ac) :
    count ≤ chunksNeeded count mult dn ac * chunkSamples mult dn ac := by
  have hceil : count ≤ chunkSamples mult dn ac * ceilDiv count (chunkSamples mult dn ac) := by
    rw [ceilDiv, ← Nat.ceilDiv_eq_add_pred_div]
    exact le_smul_ceilDiv (Nat.pos_of_ne_zero (Nat.one_le_iff_ne_zero.1 h))
  have heven : ceilDiv count (chunkSamples mult dn ac) ≤ chunksNeeded count mult dn ac := by
    rw [chunksNeeded_eq]
    omega
  rw [Nat.mul_comm]
  exact hceil.trans (Nat.mul_le_mul_left _ heven)

theorem two_le_chunksNeeded {count mult dn ac : Nat} (hcount : 1 ≤ count)
    (h : 1 ≤ chunkSamples mult dn ac) : 2 ≤ chunksNeeded count mult dn ac := by
  have hall := le_chunksNeeded_mul count mult h
  have hpos : chunksNeeded count mult dn ac ≠ 0 := by
    intro hzero
    rw [hzero, Nat.zero_mul] at hall
    omega
  rw [chunksNeeded_eq] at hpos ⊢
  omega

theorem fitsOnePass_iff {p : Params} {v : Session} :
    fitsOnePass p v = true ↔ v.continuous = false ∧
      chunksNeeded v.numSamples.toNat p.chunkMult v.dnps.toNat v.analogCount.toNat
        < chunksFit p.arenaCapacity p.chunkMult v.dnps.toNat v.analogCount.toNat := by
  simp [fitsOnePass]

theorem totalChunks_le_chunksFit (p : Params) (v : Session) :
    totalChunks p v ≤ chunksFit p.arenaCapacity p.chunkMult v.dnps.toNat v.analogCount.toNat := by
  unfold totalChunks
  split
  next hfits => exact (fitsOnePass_iff.1 hfits).2.le
  next => exact Nat.le_refl _

theorem two_dvd_totalChunks (p : Params) (v : Session) : 2 ∣ totalChunks p v := by
  simp only [totalChunks, chunksNeeded_eq, chunksFit_eq]
  split <;> exact Nat.dvd_mul_left 2 _

theorem two_le_totalChunks {p : Params} {v : Session} (harena : p.arenaOk = true)
    (hcount : 1 ≤ v.numSamples.toNat)
    (henabled : v.dnps.toNat ≠ 0 ∨ v.analogCount.toNat ≠ 0) : 2 ≤ totalChunks p v := by
  unfold totalChunks
  split
  next =>
    exact two_le_chunksNeeded hcount
      (chunkSamples_pos ((arenaOk_iff p).1 harena).1 v.dnps v.analogCount)
  next => exact two_le_chunksFit harena henabled

theorem totalChunks_mul_chunkBytes_le (p : Params) (v : Session) :
    totalChunks p v * chunkBytes p.chunkMult v.dnps.toNat v.analogCount.toNat
      ≤ p.arenaCapacity := by
  have hfit : chunksFit p.arenaCapacity p.chunkMult v.dnps.toNat v.analogCount.toNat
      ≤ p.arenaCapacity / chunkBytes p.chunkMult v.dnps.toNat v.analogCount.toNat := by
    rw [chunksFit_eq]
    exact Nat.div_mul_le_self _ 2
  exact (Nat.mul_le_mul_right _ ((totalChunks_le_chunksFit p v).trans hfit)).trans
    (Nat.div_mul_le_self _ _)

/-! ## The halves as naturals (R180, R182) -/

/-- `chunks_per_half` (R180). -/
def halfChunks (p : Params) (v : Session) : Nat := totalChunks p v / 2

/-- The slices of a half, which `samples_per_half` holds by `planGeometry_toNat`. -/
def halfSlices (p : Params) (v : Session) : Nat :=
  halfChunks p v * chunkSamples p.chunkMult v.dnps.toNat v.analogCount.toNat

/-- The bytes of a digital half, which `dig_half_size` holds by `planGeometry_toNat`. -/
def halfDigBytes (p : Params) (v : Session) : Nat :=
  halfChunks p v * digChunkBytes p.chunkMult v.dnps.toNat v.analogCount.toNat

/-- The bytes of an analog half, which `ana_half_size` holds by `planGeometry_toNat`. -/
def halfAnaBytes (p : Params) (v : Session) : Nat :=
  halfChunks p v * anaChunkBytes p.chunkMult v.dnps.toNat v.analogCount.toNat

theorem two_mul_halfChunks (p : Params) (v : Session) : 2 * halfChunks p v = totalChunks p v :=
  Nat.mul_div_cancel' (two_dvd_totalChunks p v)

theorem four_dvd_halfDigBytes (p : Params) (v : Session) : 4 ∣ halfDigBytes p v :=
  (four_dvd_digChunkBytes _ _ _).mul_left _

theorem four_dvd_halfAnaBytes (p : Params) (v : Session) : 4 ∣ halfAnaBytes p v :=
  (four_dvd_anaChunkBytes _ _ _).mul_left _

theorem two_mul_halfDigBytes (p : Params) (v : Session) :
    2 * halfDigBytes p v = halfSlices p v * v.dnps.toNat := by
  rw [halfDigBytes, halfSlices, Nat.mul_assoc, ← two_mul_digChunkBytes, Nat.mul_left_comm]

theorem halfAnaBytes_eq (p : Params) (v : Session) :
    halfAnaBytes p v = halfSlices p v * v.analogCount.toNat := by
  rw [halfAnaBytes, halfSlices, Nat.mul_assoc, anaChunkBytes]

theorem halves_fit_arena (p : Params) (v : Session) :
    2 * halfDigBytes p v + 2 * halfAnaBytes p v ≤ p.arenaCapacity := by
  have hfit := totalChunks_mul_chunkBytes_le p v
  rwa [← two_mul_halfChunks, chunkBytes, Nat.mul_add, Nat.mul_assoc, Nat.mul_assoc] at hfit

/-- A nibble per slice at the least, and half of the arena for each half. -/
theorem halfSlices_le_capacity (p : Params) {v : Session}
    (henabled : v.dnps.toNat ≠ 0 ∨ v.analogCount.toNat ≠ 0) :
    halfSlices p v ≤ p.arenaCapacity := by
  have hfit := totalChunks_mul_chunkBytes_le p v
  rw [← two_mul_halfChunks, Nat.mul_right_comm, Nat.mul_comm] at hfit
  exact (Nat.mul_le_mul_left _ (chunkSamples_le_two_mul_chunkBytes p.chunkMult henabled)).trans hfit

theorem one_le_halfSlices {p : Params} {v : Session} (harena : p.arenaOk = true)
    (hcount : 1 ≤ v.numSamples.toNat)
    (henabled : v.dnps.toNat ≠ 0 ∨ v.analogCount.toNat ≠ 0) : 1 ≤ halfSlices p v :=
  Nat.mul_pos (Nat.div_pos (two_le_totalChunks harena hcount henabled) Nat.two_pos)
    (chunkSamples_pos ((arenaOk_iff p).1 harena).1 v.dnps v.analogCount)

/-- In the nibble layout a chunk is a multiple of eight slices (R178). -/
theorem eight_dvd_halfSlices (p : Params) {v : Session} (hnibble : v.dnps.toNat = 1) :
    8 ∣ halfSlices p v := by
  have hchunk := eight_dvd_chunkSamples_mul p.chunkMult v.dnps.toNat v.analogCount.toNat
  rw [hnibble, Nat.mul_one] at hchunk
  rw [halfSlices, hnibble]
  exact hchunk.mul_left _

theorem count_le_two_mul_halfSlices {p : Params} {v : Session} (harena : p.arenaOk = true)
    (hfits : fitsOnePass p v = true) : v.numSamples.toNat ≤ 2 * halfSlices p v := by
  have hneeded := le_chunksNeeded_mul v.numSamples.toNat p.chunkMult
    (chunkSamples_pos ((arenaOk_iff p).1 harena).1 v.dnps v.analogCount)
  rw [halfSlices, ← Nat.mul_assoc, two_mul_halfChunks, totalChunks, if_pos hfits]
  exact hneeded

/-! ## The registers of the geometry (R174, R180, R181) -/

/-- Steps 3 to 5 of PLAN through the sizes of a half. -/
theorem planGeometry_eq (p : Params) (v : Session) :
    planGeometry p v = { v with
      digHalfSize := BitVec.ofNat 32 (halfDigBytes p v)
      anaHalfSize := BitVec.ofNat 32 (halfAnaBytes p v)
      digHalf0Off := 0
      digHalf1Off := BitVec.ofNat 32 (halfDigBytes p v)
      anaHalf0Off := BitVec.ofNat 32 (2 * halfDigBytes p v)
      anaHalf1Off := BitVec.ofNat 32 (2 * halfDigBytes p v + halfAnaBytes p v)
      samplesPerHalf := BitVec.ofNat 32 (halfSlices p v)
      maskOverrunAsBenign := fitsOnePass p v
      variant := variantOf v.dnps v.analogCount } := rfl

/-- Below 2^32 bytes of arena no geometry register overflows. -/
theorem planGeometry_toNat {p : Params} {v : Session} (hcap : p.arenaCapacity < 2 ^ 32)
    (henabled : v.dnps.toNat ≠ 0 ∨ v.analogCount.toNat ≠ 0) :
    (planGeometry p v).digHalfSize.toNat = halfDigBytes p v ∧
      (planGeometry p v).anaHalfSize.toNat = halfAnaBytes p v ∧
      (planGeometry p v).digHalf0Off.toNat = 0 ∧
      (planGeometry p v).digHalf1Off.toNat = halfDigBytes p v ∧
      (planGeometry p v).anaHalf0Off.toNat = 2 * halfDigBytes p v ∧
      (planGeometry p v).anaHalf1Off.toNat = 2 * halfDigBytes p v + halfAnaBytes p v ∧
      (planGeometry p v).samplesPerHalf.toNat = halfSlices p v := by
  have hbytes := halves_fit_arena p v
  have hslices := halfSlices_le_capacity p henabled
  rw [planGeometry_eq]
  exact ⟨Nat.mod_eq_of_lt (by omega), Nat.mod_eq_of_lt (by omega), rfl,
    Nat.mod_eq_of_lt (by omega), Nat.mod_eq_of_lt (by omega), Nat.mod_eq_of_lt (by omega),
    Nat.mod_eq_of_lt (by omega)⟩

theorem variantOf_eq (d : Dnps) (ac : BitVec 2) (henabled : d.toNat ≠ 0 ∨ ac.toNat ≠ 0) :
    variantOf d ac = if 0 < ac.toNat then .interleave else if d.toNat = 1 then .nibble
      else if d.toNat = 2 then .byte1 else if d.toNat = 4 then .byte2 else .byte4 := by
  by_cases hac : ac = 0
  · subst hac
    cases d with
    | n0 => exact absurd ⟨rfl, rfl⟩ (not_and_or.2 henabled)
    | _ => rfl
  · have hpos : 0 < ac.toNat := by bv_omega
    simp only [variantOf, bne_iff_ne, ne_eq, hac, not_false_eq_true, if_true, hpos]

theorem noneEnabled_iff {d : Dnps} {ac : BitVec 2} :
    d = .n0 ∧ ac = 0 ↔ d.toNat = 0 ∧ ac.toNat = 0 :=
  and_congr Dnps.toNat_eq_zero.symm BitVec.toNat_eq

/-- The Session after PLAN is one of the two geometries, over the derived registers. -/
theorem exec_plan_cases {s t : State} (h : exec .plan s = .next t) :
    s.params.arenaOk = true ∧ ∃ v, v = planDerive s.session ∧
      (((v.dnps.toNat = 0 ∧ v.analogCount.toNat = 0) ∧ t.session = planDegenerate v) ∨
        ((v.dnps.toNat ≠ 0 ∨ v.analogCount.toNat ≠ 0) ∧ t.session = planGeometry s.params v)) := by
  obtain ⟨harena, rfl⟩ := planOp_next.1 (show planOp s = .next t from h)
  refine ⟨harena, _, rfl, ?_⟩
  by_cases hnone : (planDerive s.session).dnps = .n0 ∧ (planDerive s.session).analogCount = 0
  · exact .inl ⟨noneEnabled_iff.1 hnone, if_pos hnone⟩
  · exact .inr ⟨not_and_or.1 (mt noneEnabled_iff.2 hnone), if_neg hnone⟩

/-- Settles O19: the registers hold the sizes of `planGeometry_toNat`, and `chunksFit_eq` and
`chunksNeeded_eq` put the rounding to even of R179 in the statement's form. -/
theorem planSetsGeometry : Obligations.PlanSetsGeometry := by
  intro s t _ hcap hplan
  obtain ⟨-, v, -, ⟨hnone, ht⟩ | ⟨henabled, ht⟩⟩ := exec_plan_cases hplan
  · rw [ht]
    dsimp only
    rw [if_pos (show (planDegenerate v).dnps.toNat = 0 ∧ (planDegenerate v).analogCount.toNat = 0
      from hnone)]
    exact ⟨rfl, rfl, rfl, rfl, rfl, rfl, rfl, rfl, rfl⟩
  · obtain ⟨hdig, hana, hd0, hd1, ha0, ha1, hslices⟩ := planGeometry_toNat hcap henabled
    rw [ht]
    dsimp only
    rw [if_neg (show ¬((planGeometry s.params v).dnps.toNat = 0 ∧
      (planGeometry s.params v).analogCount.toNat = 0) from not_and_or.2 henabled)]
    simp only [halfDigBytes, halfAnaBytes, halfSlices, halfChunks, totalChunks, fitsOnePass,
      chunksFit_eq, chunksNeeded_eq] at hdig hana hd1 ha0 ha1 hslices
    have hmask : (planGeometry s.params v).maskOverrunAsBenign = fitsOnePass s.params v := rfl
    simp only [fitsOnePass, chunksFit_eq, chunksNeeded_eq] at hmask
    exact ⟨hdig, hana, hd0, hd1, ha0, ha1, hslices, hmask, variantOf_eq _ _ henabled⟩

/-- Settles O20: each guarantee of R182 is a fact about the sizes of a half, and with no channel enabled every
size is 0. -/
theorem planGuarantees : Obligations.PlanGuarantees := by
  intro s t _ hcap hplan
  obtain ⟨harena, v, hv, ⟨hnone, ht⟩ | ⟨henabled, ht⟩⟩ := exec_plan_cases hplan
  · rw [ht]
    simp [planDegenerate, hnone]
  · obtain ⟨hdig, hana, hd0, hd1, ha0, ha1, hslices⟩ := planGeometry_toNat hcap henabled
    have hcount : 1 ≤ v.numSamples.toNat := by
      rw [hv]
      exact Nat.one_le_of_lt (sixteen_le_roundCount s.session.numSamples)
    have hdig4 := four_dvd_halfDigBytes s.params v
    have hana4 := four_dvd_halfAnaBytes s.params v
    rw [ht]
    dsimp only
    rw [hdig, hana, hd0, hd1, ha0, ha1, hslices]
    exact ⟨hdig4, hana4, Nat.dvd_zero 4, hdig4, hdig4.mul_left 2, (hdig4.mul_left 2).add hana4,
      halves_fit_arena s.params v, two_mul_halfDigBytes s.params v, halfAnaBytes_eq s.params v,
      fun _ => one_le_halfSlices harena hcount henabled, eight_dvd_halfSlices s.params,
      count_le_two_mul_halfSlices harena⟩

end Sys2Proof.Machine
end

section
/-! PROOFS. Proofs/Transitions.lean: `ctrl_state` changes by the transition table only
(spec/47_scheduler.md rule R313; spec/42_dma_capture.md rule R190). -/

namespace Sys2Proof.Machine

/-- The transition from `s` to `t` is one of the table, staying included. -/
def FollowsTable (s t : State) : Prop := ctrlTransition s.ctrlState t.ctrlState = true

theorem ctrlTransition_self (c : CtrlState) : ctrlTransition c c = true := by cases c <;> rfl

theorem FollowsTable.of_keeps {s t : State} (h : t.ctrlState = s.ctrlState) : FollowsTable s t := by
  rw [FollowsTable, h]
  exact ctrlTransition_self _

theorem FollowsTable.of_edge {s t : State} {a b : CtrlState} (hs : s.ctrlState = a)
    (ht : t.ctrlState = b) (h : ctrlTransition a b = true) : FollowsTable s t := by
  rw [FollowsTable, hs, ht]
  exact h

/-! ## Control operations -/

/-- CHECK_HALF goes to Aborted by an Overrun, and else stays in Capturing (R205, R213). -/
theorem execCheckHalf_follows {st : CheckStep} {hf : Half} {s t : State}
    (hctrl : s.ctrlState = .capturing) (h : execCheckHalf st hf s = .next t) : FollowsTable s t := by
  cases st <;> simp only [execCheckHalf] at h
  case poll => split at h <;> cases h <;> exact .of_keeps rfl
  case detach =>
    cases h
    rw [detachHalf_same]
    exact .of_keeps rfl
  case restore =>
    obtain ⟨u, hu, h⟩ := withValue_eq_next.1 h
    cases h
    rw [restoreHalf_same hu]
    exact .of_keeps rfl
  case test =>
    split at h <;> cases h
    · exact .of_edge hctrl rfl rfl
    · exact .of_keeps rfl
  case rechain =>
    cases h
    rw [rechainHalf_same]
    exact .of_keeps rfl
  case encode | account | target | ready =>
    cases h
    exact .of_keeps rfl

/-- The normal end goes to Completed and at last to Idle (R221). -/
theorem execWindDownNormal_follows {st : NormalStep} {s t : State}
    (hfit : controlFits s (.windDownNormal st)) (h : execWindDownNormal st s = .next t) :
    FollowsTable s t := by
  cases st <;> cases h
  case completed =>
    obtain ⟨hctrl | hctrl, -⟩ := hfit <;> exact .of_edge hctrl rfl rfl
  case flush | record => exact .of_keeps rfl
  case finish => exact .of_edge (show s.ctrlState = .completed from hfit) rfl rfl

/-- The aborted end goes to Idle (R222). -/
theorem execWindDownAborted_follows {st : AbortedStep} {s t : State}
    (hctrl : s.ctrlState = .aborted) (h : execWindDownAborted st s = .next t) : FollowsTable s t := by
  cases st <;> simp only [execWindDownAborted] at h
  case check =>
    split at h
    · split at h <;> cases h <;> exact .of_keeps rfl
    · cases h
      exact .of_edge hctrl rfl rfl
  case mark =>
    cases h
    exact .of_keeps rfl

theorem exec_control_follows {i : Instr} {s t : State} (hi : isControl i = true)
    (hfit : controlFits s i) (h : exec i s = .next t) : FollowsTable s t := by
  cases i with
  | checkHalf => exact execCheckHalf_follows hfit h
  | windDownNormal => exact execWindDownNormal_follows hfit h
  | windDownAborted => exact execWindDownAborted_follows hfit h
  | _ => cases hi

/-- The head of SEQ_A's work list: only a control operation, in the state it fits, writes `ctrl_state`. -/
theorem work_follows {s t : State} {i : Instr} {rest : List Instr} (hs : CaptureInv s)
    (htodo : s.seqA.todo = i :: rest) (h : exec i { s with seqA.todo := rest } = .next t) :
    FollowsTable s t := by
  obtain ⟨hown, hfits⟩ := (captureInv_iff s).1 hs
  have hmem : i ∈ s.seqA.todo := by simp [htodo]
  cases hc : isControl i with
  | false =>
    have hwork : isOutputWork i = true := by simp [isOutputWork, hown.a_ops i hmem, hc]
    exact .of_keeps (by rw [(exec_outputFrame hwork h).same])
  | true =>
    have hfit : controlFits s i := hfits.fits i (List.mem_filter.2 ⟨hmem, hc⟩)
    exact exec_control_follows (s := { s with seqA.todo := rest }) hc hfit h

/-! ## Steps -/

/-- The operation that the `case ctrl_state` of an iteration calls (R312). -/
theorem called_follows {s t : State} {i : Instr} {rest : List Instr} (hc : Called s i rest)
    (h : exec i { s with seqA := ⟨.top, rest⟩ } = .next t) : FollowsTable s t := by
  cases hc with
  | configure ctrl =>
    obtain rfl | e := armConfigure_same h
    · exact .of_edge ctrl rfl rfl
    · exact .of_edge ctrl (congrArg State.ctrlState e) rfl
  | start ctrl =>
    cases h
    exact .of_edge ctrl (congrArg State.ctrlState (armStart_same _)) rfl
  | stop | abort =>
    cases h
    exact .of_keeps rfl
  | check ctrl =>
    exact execCheckHalf_follows (st := .poll) (hf := s.curHalf) (s := { s with seqA := ⟨.top, []⟩ })
      ctrl h
  | flush =>
    cases h
    exact .of_keeps rfl

theorem stepA_follows {s t : State} (hs : CaptureInv s) (h : StepA s t) : FollowsTable s t := by
  obtain ⟨htodo, hrun⟩ | ⟨-, rfl⟩ | ⟨-, hops, hrun⟩ | ⟨-, rfl⟩ := h
  case work => exact work_follows hs htodo hrun
  case call => exact called_follows (called_of_iterationOps hops) hrun
  case count | pass => exact .of_keeps rfl

/-- Settles O58: SEQ_A moves along the table, SEQ_B writes `ctrl_state` by a RESET_CHAR only, and no other
agent writes it. -/
theorem ctrlStateFollowsTable : Obligations.CtrlStateFollowsTable := by
  intro s t hs h
  have hu := hs.takeInputs
  have hctrl : (takeInputs s).ctrlState = s.ctrlState := by rw [takeInputs_same]
  have moves := moves_of_step h
  rw [← hctrl]
  cases moves with
  | seqA _ move => exact .inl (stepA_follows hu move)
  | seqB agent move =>
    obtain frame | ⟨hreset, u, rfl⟩ := stepB_frame hu.own move
    · exact .inl (FollowsTable.of_keeps (by rw [frame.same]))
    · exact .inr ⟨takesReset_of_pollsReset agent hreset, rfl⟩
  | dma _ move => exact .inl (FollowsTable.of_keeps (by rw [dmaXferOp_same move]))
  | sampler _ next => exact .inl (FollowsTable.of_keeps (by rw [next, samplerDeliver_same]))
  | adc _ next => exact .inl (FollowsTable.of_keeps (by rw [next, adcDeliver_same]))
  | host _ next => exact .inl (FollowsTable.of_keeps (by rw [next]; rfl))

end Sys2Proof.Machine
end

section
/-! PROOFS. Proofs/Agents.lean: a step runs what its agent has next, and an agent with nothing to do changes
nothing (spec/47_scheduler.md rules R312 to R320; spec/42_dma_capture.md rules R196 to R203). -/

namespace Sys2Proof.Machine

/-! ## Taking the inputs (R41) -/

/-- With the arena large enough, a step is the action of its agent after the inputs have been taken. -/
theorem step_eq {s : State} (harena : s.params.arenaOk = true) :
    step s = runAction (nextAction (takeInputs s)) := by
  rw [step, if_pos harena]

theorem takeInputs_sampler (s : State) : (takeInputs s).sampler = s.sampler := by rw [takeInputs_same]
theorem takeInputs_adc (s : State) : (takeInputs s).adc = s.adc := by rw [takeInputs_same]
theorem takeInputs_params (s : State) : (takeInputs s).params = s.params := by rw [takeInputs_same]
theorem takeInputs_port (s : State) : (takeInputs s).port = s.port := by rw [takeInputs_same]
theorem takeInputs_seqA (s : State) : (takeInputs s).seqA = s.seqA := by rw [takeInputs_same]
theorem takeInputs_seqB (s : State) : (takeInputs s).seqB = s.seqB := by rw [takeInputs_same]
theorem takeInputs_chan (s : State) (c : Chan) : (takeInputs s).chan c = s.chan c := by
  rw [takeInputs_same]; rfl
theorem takeInputs_captureActive (s : State) : captureActive (takeInputs s) = captureActive s := by
  rw [takeInputs_same]; rfl

/-! ## The peripherals and the host (R203, R316) -/

theorem samplerDeliver_stopped {s : State} (w : Word) (hstop : s.sampler.running = false) :
    samplerDeliver s w = s := by
  rw [samplerDeliver, hstop, if_neg Bool.false_ne_true]

theorem samplerDeliver_room {s : State} (w : Word) (hrun : s.sampler.running = true)
    (hroom : s.sampler.fifo.length < s.params.samplerFifoDepth) :
    samplerDeliver s w = { s with sampler.fifo := s.sampler.fifo ++ [w] } := by
  rw [samplerDeliver, if_pos hrun, if_pos hroom]

theorem samplerDeliver_full {s : State} (w : Word) (hrun : s.sampler.running = true)
    (hfull : s.params.samplerFifoDepth ≤ s.sampler.fifo.length) :
    samplerDeliver s w = { s with sampler.rxStall := true } := by
  rw [samplerDeliver, if_pos hrun, if_neg (Nat.not_lt.2 hfull)]

theorem adcDeliver_stopped {s : State} (b : Byte) (hstop : s.adc.running = false) :
    adcDeliver s b = s := by
  rw [adcDeliver, hstop, if_neg Bool.false_ne_true]

theorem adcDeliver_room {s : State} (b : Byte) (hrun : s.adc.running = true)
    (hroom : s.adc.fifo.length < s.params.adcFifoDepth) :
    adcDeliver s b = { s with adc.fifo := s.adc.fifo ++ [b] } := by
  rw [adcDeliver, if_pos hrun, if_pos hroom]

theorem adcDeliver_full {s : State} (b : Byte) (hrun : s.adc.running = true)
    (hfull : s.params.adcFifoDepth ≤ s.adc.fifo.length) :
    adcDeliver s b = { s with adc.fifoOverflow := true } := by
  rw [adcDeliver, if_pos hrun, if_neg (Nat.not_lt.2 hfull)]

/-- Settles O53: one lemma for each case of a delivery. -/
theorem environmentAgentsDeliver : Obligations.EnvironmentAgentsDeliver := by
  intro s harena u
  have hstep : step s = runAction (nextAction u) := step_eq harena
  rw [hstep, ← takeInputs_sampler s, ← takeInputs_adc s, ← takeInputs_params s, ← takeInputs_port s]
  refine ⟨fun ha => ?sampler, fun ha => ?adc, fun ha => ?host⟩
  case host =>
    rw [nextAction, ha]
    rfl
  case sampler =>
    rw [nextAction, ha]
    exact ⟨fun hstop => congrArg _ (samplerDeliver_stopped _ hstop),
      fun hrun hroom => congrArg _ (samplerDeliver_room _ hrun hroom),
      fun hrun hfull => congrArg _ (samplerDeliver_full _ hrun hfull)⟩
  case adc =>
    rw [nextAction, ha]
    exact ⟨fun hstop => congrArg _ (adcDeliver_stopped _ hstop),
      fun hrun hroom => congrArg _ (adcDeliver_room _ hrun hroom),
      fun hrun hfull => congrArg _ (adcDeliver_full _ hrun hfull)⟩

/-! ## The sequencers (R312, R316, R320) -/

theorem actionA_work {s : State} {i : Instr} {rest : List Instr} (htodo : s.seqA.todo = i :: rest) :
    actionA s = .run i { s with seqA.todo := rest } := by
  simp only [actionA, htodo]

theorem actionB_work {s : State} {i : Instr} {rest : List Instr} (htodo : s.seqB.todo = i :: rest) :
    actionB s = .run i { s with seqB.todo := rest } := by
  simp only [actionB, htodo]

theorem actionB_polls {s : State} (htodo : s.seqB.todo = [])
    (hpolls : s.seqB.pos = .body ∨ captureActive s = false) : actionB s = takeChar s := by
  simp only [actionB, htodo]
  obtain hbody | hidle := hpolls
  · rw [hbody]
  · rw [hidle, if_neg Bool.false_ne_true]
    split <;> rfl

theorem actionB_waits {s : State} (htodo : s.seqB.todo = []) (htop : s.seqB.pos = .top)
    (hactive : captureActive s = true) :
    actionB s = .done { s with seqB := ⟨.body, [.wake .wait]⟩ } := by
  simp only [actionB, htodo, htop, hactive, if_true]

theorem takeChar_of_cons {s : State} {c : Byte} {rest : List Byte} (hrx : s.port.rx = c :: rest) :
    takeChar s = .run (.route c) { s with port.rx := rest, seqB := ⟨.top, []⟩ } := by
  simp only [takeChar, hrx]

theorem takeChar_of_nil {s : State} (hrx : s.port.rx = []) :
    takeChar s = .done { s with seqB := ⟨.top, []⟩ } := by
  simp only [takeChar, hrx]

/-- Without the wake event SEQ_B goes on waiting and nothing changes (R320). -/
theorem waits_unchanged {s : State} (hhead : s.seqB.todo.head? = some (.wake .wait))
    (hevent : s.wakeEvt = false) : runAction (actionB s) = .next s := by
  obtain ⟨rest, htodo⟩ := List.head?_eq_some_iff.1 hhead
  have hsame : State.pushB { s with seqB.todo := rest } [.wake .wait] = s := by
    simp only [State.pushB, List.singleton_append, ← htodo]
  rw [actionB_work htodo, runAction, exec, execWake]
  exact (if_neg (ne_true_of_eq_false hevent)).trans (congrArg _ hsame)

/-! ## The channels (R196, R198) -/

theorem popSource_of_not_ready {s : State} {c : Chan} (h : sourceReady s c = false) :
    popSource s c = none := by
  cases c with
  | d0 | d1 =>
    have hempty : s.sampler.fifo = [] := by simpa [sourceReady] using h
    simp only [popSource, hempty]
  | a0 | a1 =>
    have hempty : s.adc.fifo = [] := by simpa [sourceReady] using h
    simp only [popSource, hempty]

/-- A channel that is idle or has nothing to move changes nothing (R198). -/
theorem dmaXfer_of_not_enabled {s : State} {c : Chan}
    (h : (s.chan c).busy = false ∨ sourceReady s c = false) : exec (.dmaXfer c) s = .next s := by
  rw [exec, execDmaXfer, dmaXferOp]
  obtain hidle | hempty := h
  · rw [hidle, if_neg Bool.false_ne_true, ofExcept_ok]
  · rw [popSource_of_not_ready hempty, ite_self, ofExcept_ok]

theorem sourceReady_of_empty {s : State} {c : Chan} (h : (isDigital c = true ∧ s.sampler.fifo = []) ∨
    (isDigital c = false ∧ s.adc.fifo = [])) : sourceReady s c = false := by
  obtain ⟨hc, hempty⟩ | ⟨hc, hempty⟩ := h
  · cases c with
    | d0 | d1 => rw [sourceReady, hempty]; rfl
    | a0 | a1 => cases hc
  · cases c with
    | d0 | d1 => cases hc
    | a0 | a1 => rw [sourceReady, hempty]; rfl

/-! ## All agents -/

/-- An agent but the host that has no enabled step changes nothing when it is its turn (R315). -/
theorem runAction_of_not_enabled {s : State} (hhost : s.env.agent ≠ .host)
    (h : enabled s s.env.agent = false) : runAction (nextAction s) = .next s := by
  rw [nextAction]
  cases ha : s.env.agent with
  | host => exact absurd ha hhost
  | seqA =>
    rw [ha] at h
    cases h
  | seqB =>
    rw [ha, enabled, Bool.or_eq_false_iff, bne_eq_false_iff_eq] at h
    exact waits_unchanged h.1 h.2
  | dma c =>
    rw [ha, enabled, Bool.and_eq_false_iff] at h
    exact dmaXfer_of_not_enabled h
  | sampler =>
    rw [ha] at h
    exact congrArg _ (samplerDeliver_stopped _ h)
  | adc =>
    rw [ha] at h
    exact congrArg _ (adcDeliver_stopped _ h)

/-- Whether an agent has an enabled step does not depend on the inputs of the step. -/
theorem enabled_takeInputs (s : State) (a : Agent) : enabled (takeInputs s) a = enabled s a := by
  rw [takeInputs_same]
  cases a with
  | dma c => cases c <;> rfl
  | _ => rfl

/-- Settles O50: one lemma for each position of the agent that moves. -/
theorem stepRunsNextOperation : Obligations.StepRunsNextOperation := by
  intro s harena u
  have hstep : step s = runAction (nextAction u) := step_eq harena
  rw [hstep, ← takeInputs_sampler s, ← takeInputs_adc s, ← takeInputs_port s, ← takeInputs_seqA s,
    ← takeInputs_seqB s, ← takeInputs_captureActive s, ← enabled_takeInputs s]
  refine ⟨fun i rest ha htodo => ?workA, fun i rest ha htodo => ?workB, fun c ha => ?transfer,
    fun c rest ha htodo hpolls hrx => ?char, fun ha htodo hpolls hrx => ?noChar,
    fun ha htodo htop hactive => ?waits, runAction_of_not_enabled⟩
  case workA =>
    rw [nextAction, ha, actionA_work htodo]
    rfl
  case workB =>
    rw [nextAction, ha, actionB_work htodo]
    rfl
  case transfer =>
    rw [nextAction, ha, ← takeInputs_chan s]
    exact ⟨rfl, fun h => dmaXfer_of_not_enabled (h.imp_right sourceReady_of_empty)⟩
  case char =>
    rw [nextAction, ha, actionB_polls htodo hpolls, takeChar_of_cons hrx]
    rfl
  case noChar =>
    rw [nextAction, ha, actionB_polls htodo hpolls, takeChar_of_nil hrx]
    rfl
  case waits =>
    rw [nextAction, ha, actionB_waits htodo htop hactive]
    rfl

end Sys2Proof.Machine
end

section
/-! PROOFS. Proofs/Transfers.lean: what a trigger, a completion and a transfer of a channel do, and that they
change nothing else (spec/42_dma_capture.md rules R197 to R200). -/

namespace Sys2Proof.Machine

/-! ## Triggers and completions (R197, R199, R200) -/

theorem exec_dmaTrigger_next {c : Chan} {s t : State} :
    exec (.dmaTrigger c) s = .next t ↔ dmaTriggerOp s c = .ok t := ofExcept_eq_next

theorem exec_dmaComplete_next {c : Chan} {s t : State} :
    exec (.dmaComplete c) s = .next t ↔ dmaCompleteOp s c = .ok t := ofExcept_eq_next

/-- A channel that is not the one written keeps its registers. -/
theorem State.chan_setChan_of_ne (s : State) {c p : Chan} (v : DmaChan) (h : p ≠ c) :
    (s.setChan c v).chan p = s.chan p := by rw [State.chan_setChan, if_neg h]

theorem dmaTrigger_of_idle {c : Chan} {s : State} (hidle : (s.chan c).busy = false)
    (hreload : (s.chan c).reload ≠ 0) :
    exec (.dmaTrigger c) s =
      .next (s.setChan c { s.chan c with count := (s.chan c).reload, busy := true }) :=
  exec_dmaTrigger_next.2 (dmaTriggerOp_ok.2 (.inr ⟨hidle, hreload, rfl⟩))

/-- Chained to itself, a channel stops. -/
theorem dmaComplete_of_self {c : Chan} {s : State} (hself : (s.chan c).chainTo = c) :
    exec (.dmaComplete c) s = .next (s.setChan c { s.chan c with busy := false }) :=
  exec_dmaComplete_next.2 (dmaCompleteOp_ok.2 (.inl ⟨hself, rfl⟩))

/-- Chained to a busy channel, it stops too: the trigger is ignored. -/
theorem dmaComplete_of_busy {c p : Chan} {s : State} (hchain : (s.chan c).chainTo = p) (hne : p ≠ c)
    (hbusy : (s.chan p).busy = true) :
    exec (.dmaComplete c) s = .next (s.setChan c { s.chan c with busy := false }) := by
  refine exec_dmaComplete_next.2 (dmaCompleteOp_ok.2 (.inr ⟨hchain ▸ hne, ?_⟩))
  rw [hchain]
  exact dmaTriggerOp_ok.2 (.inl ⟨by rw [State.chan_setChan_of_ne _ _ hne, hbusy], rfl⟩)

/-- Chained to an idle channel, it stops and starts that one. -/
theorem dmaComplete_of_idle {c p : Chan} {s : State} (hchain : (s.chan c).chainTo = p) (hne : p ≠ c)
    (hidle : (s.chan p).busy = false) (hreload : (s.chan p).reload ≠ 0) :
    exec (.dmaComplete c) s = .next ((s.setChan c { s.chan c with busy := false }).setChan p
      { s.chan p with count := (s.chan p).reload, busy := true }) := by
  refine exec_dmaComplete_next.2 (dmaCompleteOp_ok.2 (.inr ⟨hchain ▸ hne, ?_⟩))
  rw [hchain]
  refine dmaTriggerOp_ok.2 (.inr ?_)
  rw [State.chan_setChan_of_ne _ _ hne]
  exact ⟨hidle, hreload, rfl⟩

/-- Settles O26: one lemma for each state of the channel and of its chain target. -/
theorem triggerAndCompletion : Obligations.TriggerAndCompletion := by
  intro c s
  refine ⟨fun hbusy => ?ignored, fun hidle hreload => ?started, fun hself => ?stops,
    fun p hchain hne hbusy => ?busy, fun p hchain hne hidle hreload => ?idle⟩
  case ignored => exact exec_dmaTrigger_next.2 (dmaTriggerOp_ok.2 (.inl ⟨hbusy, rfl⟩))
  case started => exact ⟨_, dmaTrigger_of_idle hidle hreload, rfl, fun x => State.chan_setChan ..⟩
  case stops => exact ⟨_, dmaComplete_of_self hself, rfl, fun x => State.chan_setChan ..⟩
  case busy => exact ⟨_, dmaComplete_of_busy hchain hne hbusy, rfl, fun x => State.chan_setChan ..⟩
  case idle =>
    refine ⟨_, dmaComplete_of_idle hchain hne hidle hreload, rfl, fun x => ?_⟩
    rw [State.chan_setChan, State.chan_setChan]
    by_cases hx : x = c
    · rw [if_pos hx, if_pos hx, if_neg (hx ▸ hne.symm)]
    · rw [if_neg hx, if_neg hx]

/-! ## Transfers (R198) -/

/-- The registers of a channel after a transfer (R198). -/
def DmaChan.advance (ch : DmaChan) : DmaChan :=
  { ch with writeAddr := ch.writeAddr + BitVec.ofNat 32 ch.xfer.bytes, count := ch.count - 1 }

theorem DmaChan.advance_of_bytes {ch : DmaChan} {n : Nat} (h : ch.xfer.bytes = n) :
    ch.advance =
      { ch with writeAddr := ch.writeAddr + BitVec.ofNat 32 n, count := ch.count - 1 } := by
  rw [DmaChan.advance, h]

/-- The state after the unit `u`, popped already, has been stored for the channel (R198). -/
def transferred (s : State) (c : Chan) (u : Word) : State :=
  State.setChan { s with
      arena := writeBytes s.arena (s.chan c).writeAddr.toNat (leBytes u (s.chan c).xfer.bytes) }
    c (s.chan c).advance

/-- A busy channel with a unit in its source and an address the arena admits moves the unit; after the last
of its count it completes. -/
theorem dmaXfer_of_ready {c : Chan} {s s1 : State} {u : Word} (hbusy : (s.chan c).busy = true)
    (hpop : popSource s c = some (u, s1))
    (hrange : (s.chan c).writeAddr.toNat + (s.chan c).xfer.bytes ≤ s.params.arenaCapacity)
    (halign : (s.chan c).xfer.bytes ∣ (s.chan c).writeAddr.toNat) :
    exec (.dmaXfer c) s =
      if (s.chan c).count = 1 then exec (.dmaComplete c) (transferred s1 c u)
      else .next (transferred s1 c u) := by
  have hsame := popSource_same hpop
  have hchan : s1.chan c = s.chan c := by
    rw [hsame]
    rfl
  have hwrite := memWrite_complete s1 (s.chan c).writeAddr.toNat (s.chan c).xfer.bytes u
    (by rw [hsame]; exact hrange) halign
  have hlast : (s.chan c).count - 1 = 0 ↔ (s.chan c).count = 1 := by bv_omega
  rw [transferred, hchan, exec, execDmaXfer, dmaXferOp, if_pos hbusy, hpop]
  simp only [hwrite, hlast]
  split <;> rfl

theorem chan_transferred (s : State) (c x : Chan) (u : Word) :
    (transferred s c u).chan x = if x = c then (s.chan c).advance else s.chan x :=
  State.chan_setChan ..

/-- The little-endian bytes of a word after it has been stored (R62, R198). -/
theorem readByte_store_word (m : Memory) (a x : Nat) (u : Word) :
    readByte (writeBytes m a (leBytes u 4)) x =
      if x = a then u.setWidth 8
      else if x = a + 1 then (u >>> 8).setWidth 8
      else if x = a + 2 then (u >>> 16).setWidth 8
      else if x = a + 3 then (u >>> 24).setWidth 8
      else readByte m x := by
  have hstored : ∀ i, i < 4 →
      readByte (writeBytes m a (leBytes u 4)) (a + i) = (u >>> (8 * i)).setWidth 8 := by
    intro i hi
    rw [readByte_writeBytes, if_pos (Nat.le_add_right a i), Nat.add_sub_cancel_left,
      leBytes_getElem? u 4 i hi, Option.getD_some]
  by_cases h0 : x = a
  · rw [if_pos h0, h0]
    exact hstored 0 (by decide)
  by_cases h1 : x = a + 1
  · rw [if_neg h0, if_pos h1, h1, hstored 1 (by decide)]
  by_cases h2 : x = a + 2
  · rw [if_neg h0, if_neg h1, if_pos h2, h2, hstored 2 (by decide)]
  by_cases h3 : x = a + 3
  · rw [if_neg h0, if_neg h1, if_neg h2, if_pos h3, h3, hstored 3 (by decide)]
  · rw [if_neg h0, if_neg h1, if_neg h2, if_neg h3, readByte_writeBytes_of_outside]
    rw [leBytes_length]
    omega

theorem readByte_store_byte (m : Memory) (a x : Nat) (b : Byte) :
    readByte (writeBytes m a (leBytes (b.setWidth 32) 1)) x = if x = a then b else readByte m x := by
  have hbytes : leBytes (b.setWidth 32) 1 = [b] := by simp [leBytes]
  rw [hbytes, writeBytes, writeBytes, readByte_writeByte]

/-- Settles O27: the unit popped is the head of the channel's source, four bytes or one. -/
theorem transferMovesOneUnit : Obligations.TransferMovesOneUnit := by
  intro c s hunit
  refine ⟨fun u rest hc hbusy hfifo hrange halign => ?word, fun b rest hc hbusy hfifo hrange => ?byte⟩
  case word =>
    have hbytes : (s.chan c).xfer.bytes = 4 := by rw [hunit, if_pos hc]; rfl
    have hpop : popSource s c = some (u, { s with sampler.fifo := rest }) := by
      cases c with
      | d0 | d1 => simp only [popSource, hfifo]
      | a0 | a1 => cases hc
    refine ⟨_, rfl, fun x => ?_, fun x => ?_,
      dmaXfer_of_ready hbusy hpop (hbytes ▸ hrange) (hbytes ▸ halign)⟩
    · have hstore := readByte_store_word s.arena (s.chan c).writeAddr.toNat x u
      rw [← hbytes] at hstore
      exact hstore
    · exact (chan_transferred _ c x u).trans (if_congr Iff.rfl (DmaChan.advance_of_bytes hbytes) rfl)
  case byte =>
    have hbytes : (s.chan c).xfer.bytes = 1 := by rw [hunit, hc]; rfl
    have hpop : popSource s c = some (b.setWidth 32, { s with adc.fifo := rest }) := by
      cases c with
      | d0 | d1 => cases hc
      | a0 | a1 => simp only [popSource, hfifo]
    refine ⟨_, rfl, fun x => ?_, fun x => ?_,
      dmaXfer_of_ready hbusy hpop (hbytes ▸ hrange) (hbytes ▸ one_dvd _)⟩
    · have hstore := readByte_store_byte s.arena (s.chan c).writeAddr.toNat x b
      rw [← hbytes] at hstore
      exact hstore
    · exact (chan_transferred _ c x _).trans (if_congr Iff.rfl (DmaChan.advance_of_bytes hbytes) rfl)

end Sys2Proof.Machine
end

section
/-! PROOFS. Proofs/Controller.lean: the atomic steps of the capture controller, one by one: ARM, CHECK_HALF,
Overrun, StopCapture and the two wind-downs (spec/42_dma_capture.md rules R191 to R222). -/

namespace Sys2Proof.Machine

/-! ## ARM (R193 to R195) -/

/-- Settles O24: the variant NONE is tested before anything is configured. -/
theorem armWithNothingEnabledCompletes : Obligations.ArmWithNothingEnabledCompletes := by
  intro s hvariant
  rw [exec, execArm, armConfigure]
  simp only [if_pos hvariant]
  rfl

/-- The state after the digital pair has been configured and started, if its kind is enabled (R193). -/
def digitalStarted (s : State) : State :=
  { s with
    dma.d0 := if digEn s then
      { s.dma.d0 with
        busy := true, writeAddr := s.session.digHalf0Off, chainTo := .d1
        count := s.session.digHalfSize / 4, reload := s.session.digHalfSize / 4 }
      else s.dma.d0
    dma.d1 := if digEn s then
      { s.dma.d1 with
        writeAddr := s.session.digHalf1Off, chainTo := .d1, count := 0
        reload := s.session.digHalfSize / 4 }
      else s.dma.d1 }

/-- The same for the analog pair. -/
def analogStarted (s : State) : State :=
  { s with
    dma.a0 := if anaEn s then
      { s.dma.a0 with
        busy := true, writeAddr := s.session.anaHalf0Off, chainTo := .a1
        count := s.session.anaHalfSize, reload := s.session.anaHalfSize }
      else s.dma.a0
    dma.a1 := if anaEn s then
      { s.dma.a1 with
        writeAddr := s.session.anaHalf1Off, chainTo := .a1, count := 0
        reload := s.session.anaHalfSize }
      else s.dma.a1 }

theorem configureDigital_eq {s : State}
    (hok : digEn s = true →
      (s.chan .d0).busy = false ∧ (s.chan .d1).busy = false ∧ s.session.digHalfSize / 4 ≠ 0) :
    configureDigital s = .ok (digitalStarted s) := by
  unfold configureDigital digitalStarted
  cases hen : digEn s with
  | false => rfl
  | true =>
    obtain ⟨h0, h1, hn⟩ := hok hen
    exact (configurePair_ok (by decide)).2 ⟨h0, h1, hn, rfl⟩

theorem configureAnalog_eq {s : State}
    (hok : anaEn s = true →
      (s.chan .a0).busy = false ∧ (s.chan .a1).busy = false ∧ s.session.anaHalfSize ≠ 0) :
    configureAnalog s = .ok (analogStarted s) := by
  unfold configureAnalog analogStarted
  cases hen : anaEn s with
  | false => rfl
  | true =>
    obtain ⟨h0, h1, hn⟩ := hok hen
    exact (configurePair_ok (by decide)).2 ⟨h0, h1, hn, rfl⟩

/-- A peripheral that is started runs; one that is not stays as it was. -/
theorem samplerStart_kind (s : State) (en : Bool) :
    (if en then samplerStart s else s) = { s with sampler.running := s.sampler.running || en } := by
  cases en <;> simp [samplerStart]

theorem adcStart_kind (s : State) (en : Bool) :
    (if en then adcStart s else s) = { s with adc.running := s.adc.running || en } := by
  cases en <;> simp [adcStart]

/-- Settles O25: the two pairs are configured one after the other, and neither touches the other. -/
theorem armConfiguresThenStarts : Obligations.ArmConfiguresThenStarts := by
  intro s
  refine ⟨fun hvariant hdig hana => ?configure, ?start⟩
  case configure =>
    have hd := configureDigital_eq (s := armPeripherals (armClear s)) hdig
    have ha := configureAnalog_eq (s := digitalStarted (armPeripherals (armClear s))) hana
    rw [exec, execArm, armConfigure]
    simp only [if_neg hvariant, hd, withValue_ok, ha]
    rfl
  case start =>
    rw [exec, execArm, armStart, samplerStart_kind, adcStart_kind]

/-! ## CHECK_HALF (R205 to R216) -/

theorem halfBusy_iff (s : State) (h : Half) :
    halfBusy s h = true ↔ (digEn s = true ∧ (s.chan (digChan h)).busy = true) ∨
      (anaEn s = true ∧ (s.chan (anaChan h)).busy = true) := by
  simp [halfBusy]

/-- Settles O28: step 1 tests whether the half is busy. -/
theorem pollOfBusyHalfChangesNothing : Obligations.PollOfBusyHalfChangesNothing := by
  intro h s
  rw [← halfBusy_iff]
  refine ⟨fun hbusy => ?_, fun hidle => ?_⟩
  · rw [exec, execCheckHalf, if_pos hbusy]
  · rw [exec, execCheckHalf, if_neg hidle]
    rfl

theorem chan_setChainTo (s : State) (c t x : Chan) :
    (setChainTo s c t).chan x = if x = c then { s.chan x with chainTo := t } else s.chan x := by
  rw [setChainTo, State.chan_setChan]
  split
  next hx => rw [hx]
  next => rfl

/-- The chain targets of a digital and an analog channel, each written for an enabled kind. -/
theorem chan_setChainTo_kinds (s : State) (dig ana : Bool) {c c' : Chan} (hne : c' ≠ c) (t t' x : Chan) :
    State.chan (if ana then setChainTo (if dig then setChainTo s c t else s) c' t'
        else if dig then setChainTo s c t else s) x =
      if dig = true ∧ x = c then { s.chan x with chainTo := t }
      else if ana = true ∧ x = c' then { s.chan x with chainTo := t' }
      else s.chan x := by
  cases dig <;> cases ana <;> simp only [chan_setChainTo, if_true, Bool.false_eq_true, if_false,
    false_and, true_and]
  by_cases hx : x = c
  · rw [if_pos hx, if_neg (by rw [hx]; exact hne.symm), if_pos hx]
  · simp only [if_neg hx]

/-- Step 3a on each channel (R208). -/
theorem chan_detachHalf (s : State) (h : Half) (x : Chan) :
    (detachHalf s h).chan x =
      if (digEn s = true ∧ x = digChan h) ∨ (anaEn s = true ∧ x = anaChan h) then
        { s.chan x with chainTo := x } else s.chan x := by
  have e := chan_setChainTo_kinds s (digEn s) (anaEn s) (anaChan_ne_digChan h) (digChan h) (anaChan h) x
  refine Eq.trans e ?_
  by_cases hd : digEn s = true ∧ x = digChan h
  · rw [if_pos hd, if_pos (.inl hd), hd.2]
  · by_cases ha : anaEn s = true ∧ x = anaChan h
    · rw [if_neg hd, if_pos ha, if_pos (.inr ha), ha.2]
    · rw [if_neg hd, if_neg ha, if_neg (not_or.2 ⟨hd, ha⟩)]

/-- Step 5 on each channel (R215). -/
theorem chan_rechainHalf (s : State) (h : Half) (x : Chan) :
    (rechainHalf s h).chan x =
      if digEn s = true ∧ x = digChan h.other then { s.chan x with chainTo := digChan h }
      else if anaEn s = true ∧ x = anaChan h.other then { s.chan x with chainTo := anaChan h }
      else s.chan x :=
  chan_setChainTo_kinds s (digEn s) (anaEn s) (anaChan_ne_digChan h.other) (digChan h) (anaChan h) x

/-- The write address of an idle channel, written for an enabled kind. -/
theorem setWriteAddr_kind {s : State} {en : Bool} {c : Chan} (addr : Word)
    (hidle : en = true → (s.chan c).busy = false) :
    ∃ t, (if en then setWriteAddr s c addr else .ok s) = .ok t ∧ ∀ x, t.chan x =
      if en = true ∧ x = c then { s.chan x with writeAddr := addr } else s.chan x := by
  cases en with
  | false => exact ⟨s, rfl, fun x => by simp⟩
  | true =>
    refine ⟨_, setWriteAddr_ok.2 ⟨hidle rfl, rfl⟩, fun x => ?_⟩
    rw [State.chan_setChan]
    by_cases hx : x = c <;> simp [hx]

/-- Step 3b completes on idle channels, and what it does to each (R209). -/
theorem restoreHalf_complete {s : State} {h : Half}
    (hdig : digEn s = true → (s.chan (digChan h)).busy = false)
    (hana : anaEn s = true → (s.chan (anaChan h)).busy = false) :
    ∃ t, restoreHalf s h = .ok t ∧ ∀ x, t.chan x =
      if digEn s = true ∧ x = digChan h then { s.chan x with writeAddr := s.session.digOff h }
      else if anaEn s = true ∧ x = anaChan h then { s.chan x with writeAddr := s.session.anaOff h }
      else s.chan x := by
  have hne := anaChan_ne_digChan h
  obtain ⟨u, hu, hchan⟩ := setWriteAddr_kind (s.session.digOff h) hdig
  have hkeep : u.chan (anaChan h) = s.chan (anaChan h) := by
    rw [hchan, if_neg fun hc => hne hc.2]
  obtain ⟨t, ht, hchan'⟩ := setWriteAddr_kind (s := u) (s.session.anaOff h)
    (fun hen => by rw [hkeep, hana hen])
  refine ⟨t, restoreHalf_ok.2 ⟨u, hu, ht⟩, fun x => ?_⟩
  rw [hchan']
  by_cases hx : x = anaChan h
  · rw [hx, hkeep, if_neg (c := digEn s = true ∧ anaChan h = digChan h) fun hc => hne hc.2]
  · rw [if_neg fun hc => hx hc.2, hchan, if_neg (c := anaEn s = true ∧ x = anaChan h) fun hc => hx hc.2]

/-- Settles O29: each step writes one register of the enabled kinds' channels. -/
theorem halfIsDetachedRestoredRechained : Obligations.HalfIsDetachedRestoredRechained := by
  intro h s
  refine ⟨⟨_, rfl, ?detach, chan_detachHalf s h⟩, fun hdig hana => ?restore,
    ⟨_, rfl, ?rechain, chan_rechainHalf s h⟩, rfl⟩
  case detach =>
    rw [detachHalf_same]
    rfl
  case rechain =>
    rw [rechainHalf_same]
    rfl
  case restore =>
    obtain ⟨t, ht, hchan⟩ := restoreHalf_complete hdig hana
    refine ⟨t.pushA [.checkHalf .encode h], ?_, ?_, hchan⟩
    · rw [exec, execCheckHalf, ht, withValue_ok]
    · rw [restoreHalf_same ht]
      rfl

theorem targetReached_iff (s : State) :
    targetReached s = true ↔
      s.session.continuous = false ∧ s.session.numSamples.toNat ≤ s.session.samplesSentCount := by
  simp [targetReached]

/-- Settles O30: step 3c is one call and one sum, step 3d one test. -/
theorem halfIsEncodedAndCounted : Obligations.HalfIsEncodedAndCounted := by
  intro h s
  refine ⟨⟨encoderOf s.session.variant h, ?encode, ?_, ?_, ?_, ?_, ?_⟩, rfl,
    fun hfixed hcount => ?reached, fun hshort => ?short⟩
  case encode =>
    rw [exec, execCheckHalf, State.pushA, List.append_assoc]
    rfl
  case reached =>
    have hreached := (targetReached_iff s).2 ⟨hfixed, hcount⟩
    rw [exec, execCheckHalf, hreached, Bool.not_true, Bool.and_false]
    rfl
  case short =>
    have hreached : targetReached s = false := by
      rw [← Bool.not_eq_true, targetReached_iff]
      rintro ⟨hfixed, hcount⟩
      obtain hcont | hlt := hshort
      · rw [hcont] at hfixed
        cases hfixed
      · omega
    rw [exec, execCheckHalf, hreached, Bool.not_false, Bool.and_true]
    rfl
  all_goals
    intro hvariant
    rw [hvariant]
    rfl

/-! ## Overrun (R212 to R214, R336) -/

/-- An unmasked capture with one of the three conditions has a cause, the first of them (R212, R339). -/
theorem overrunCause_of_any {s : State} {h : Half} (hmask : s.session.maskOverrunAsBenign = false)
    (hany : ((digEn s && s.sampler.rxStall) || (anaEn s && s.adc.fifoOverflow) ||
      halfIdle s h.other) = true) :
    overrunCause s h = some (if digEn s && s.sampler.rxStall then .samplerStall
      else if anaEn s && s.adc.fifoOverflow then .adcOverflow else .peerIdle) := by
  rw [overrunCause, hmask, if_neg Bool.false_ne_true]
  split
  · rfl
  next hstall =>
    split
    · rfl
    next hover =>
      rw [Bool.eq_false_of_not_eq_true hstall, Bool.eq_false_of_not_eq_true hover] at hany
      exact if_pos hany

theorem overrunCause_of_none {s : State} {h : Half}
    (hnone : s.session.maskOverrunAsBenign = true ∨ ((digEn s && s.sampler.rxStall) ||
      (anaEn s && s.adc.fifoOverflow) || halfIdle s h.other) = false) :
    overrunCause s h = none := by
  rw [overrunCause]
  obtain hmask | hnone := hnone
  · rw [if_pos hmask]
  · rw [Bool.or_eq_false_iff, Bool.or_eq_false_iff] at hnone
    obtain ⟨⟨hstall, hover⟩, hidle⟩ := hnone
    rw [hstall, hover, hidle]
    exact ite_self _

/-- Settles O31: the cause decides between the entry of Overrun and step 5. -/
theorem overrunTestAndEntry : Obligations.OverrunTestAndEntry := by
  intro h s
  refine ⟨fun cause => rfl, fun hmask hany => ?raised, fun hnone => ?passed⟩
  case raised =>
    have hcause := overrunCause_of_any hmask hany
    refine ⟨?_, hcause⟩
    rw [exec, execCheckHalf, hcause]
    rfl
  case passed =>
    rw [exec, execCheckHalf, overrunCause_of_none hnone]
    rfl

/-! ## The ends of a capture (R220 to R222) -/

/-- Settles O32: `stopCapture_eq` gives every register, and each write sets a constant. -/
theorem stopIdlesPeripheralsAndChannels : Obligations.StopIdlesPeripheralsAndChannels := by
  intro s
  refine ⟨stopCapture s, rfl, by rw [stopCapture_eq], fun c => ?_, ?_⟩
  · rw [stopCapture_eq]
    cases c <;> rfl
  · rw [exec, execStop, stopCapture_eq, stopCapture_eq]

/-- Settles O33: each step is one write or one call; the aborted end tests `aborted`, then the time. -/
theorem windDownSteps : Obligations.WindDownSteps := by
  intro s due
  have hdue : markerDue s = due := rfl
  refine ⟨rfl, rfl, rfl, rfl, fun habort hmark => ?mark, fun habort hwait => ?wait,
    fun hcleared => ?leave, rfl⟩
  case mark =>
    rw [exec, execWindDownAborted, if_pos habort, hdue, if_pos hmark]
    rfl
  case wait =>
    rw [exec, execWindDownAborted, if_pos habort, hdue, hwait, if_neg Bool.false_ne_true]
  case leave =>
    rw [exec, execWindDownAborted, hcleared, if_neg Bool.false_ne_true]
    rfl

end Sys2Proof.Machine
end

section
/-! PROOFS. Proofs/NibbleWire.lean: what the output operations of a half put on the wire, run by SEQ_A over an
ideal transport (spec/46_transmitter.md rules R285 to R291), and ENC_NIBBLE over a whole half
(spec/43_nibble_rle.md rules R232, R238). -/

namespace Sys2Proof.Machine

/-! ## One sequencer alone -/

/-- The sequencer alone gets from `s` to `t` with some number of operations of its work list. -/
def Reaches (who : Sequencer) (s t : State) : Prop := ∃ n, drain who n s = .next t

theorem Reaches.refl (who : Sequencer) (s : State) : Reaches who s s := ⟨0, rfl⟩

/-- The head of the work list runs first. -/
theorem Reaches.head {who : Sequencer} {s u t : State} {i : Instr} {rest : List Instr}
    (htodo : s.todo who = i :: rest) (hrun : exec i (s.setTodo who rest) = .next u)
    (h : Reaches who u t) : Reaches who s t := by
  obtain ⟨n, hn⟩ := h
  refine ⟨n + 1, ?_⟩
  rw [drain, htodo]
  simp only [hrun, andThen_next, hn]

theorem drain_of_drain {who : Sequencer} {m : Nat} {s u : State} (h : drain who m s = .next u) (n : Nat) :
    ∃ k, drain who k s = drain who n u := by
  induction m generalizing s with
  | zero =>
    cases h
    exact ⟨n, rfl⟩
  | succ m ih =>
    rw [drain] at h
    cases htodo : s.todo who with
    | nil =>
      rw [htodo] at h
      cases h
      exact ⟨n, rfl⟩
    | cons i rest =>
      rw [htodo] at h
      obtain ⟨v, hv, hrest⟩ := andThen_eq_next.1 h
      obtain ⟨k, hk⟩ := ih hrest
      refine ⟨k + 1, ?_⟩
      rw [drain, htodo]
      simp only [hv, andThen_next, hk]

theorem Reaches.trans {who : Sequencer} {s u t : State} (h : Reaches who s u) (h' : Reaches who u t) :
    Reaches who s t := by
  obtain ⟨m, hm⟩ := h
  obtain ⟨n, hn⟩ := h'
  obtain ⟨k, hk⟩ := drain_of_drain hm n
  exact ⟨k, hk.trans hn⟩

/-! ## Send over an ideal transport (R285, R291) -/

/-- Two writes of consecutive parts are one write of the whole. -/
theorem portWrite_portWrite (s : State) (data : List Byte) (k : Nat) (counted : Bool)
    (hk : k ≤ data.length) :
    portWrite (portWrite s data k counted) (data.drop k) (data.drop k).length counted =
      portWrite s data data.length counted := by
  have hwire : s.port.wire ++ data.take k ++ (data.drop k).take (data.drop k).length =
      s.port.wire ++ data.take data.length := by
    rw [List.take_length, List.take_length, List.append_assoc, List.take_append_drop]
  have hcount : ∀ n, n + (if counted then k else 0) + (if counted then (data.drop k).length else 0) =
      n + if counted then data.length else 0 := by
    intro n
    rw [List.length_drop]
    split <;> omega
  have htime : (if 0 < (data.drop k).length then s.nowUs else if 0 < k then s.nowUs
      else s.tx.lastWriteUs) = if 0 < data.length then s.nowUs else s.tx.lastWriteUs := by
    rw [List.length_drop, ← ite_or]
    exact if_congr (by omega) rfl rfl
  simp only [portWrite, hwire, hcount, htime]

/-- What there is room for is written whole. -/
theorem sendIteration_last {s : State} {data : List Byte} (who : Sequencer) (counted : Bool)
    (hs : IdealTransport s) (hne : data ≠ []) (hfits : data.length ≤ s.env.writeAvailable) :
    sendIteration s who data counted = portWrite s data data.length counted := by
  have hlen : 0 < data.length := List.length_pos_of_ne_nil hne
  have haccepts : portAccepts s.env data.length = data.length :=
    portAccepts_of_room _ _ (Nat.le_trans hfits hs.at_call)
  simp only [sendIteration, Nat.min_eq_left hfits, hlen, haccepts, List.drop_length, if_true]

/-- Of more than that, as much as there is room for is written, and the loop goes on with the rest. -/
theorem sendIteration_part {s : State} {data : List Byte} (who : Sequencer) (counted : Bool)
    (hs : IdealTransport s) (hmore : s.env.writeAvailable < data.length) :
    sendIteration s who data counted = (portWrite s data s.env.writeAvailable counted).push who
      [.send who .loop (data.drop s.env.writeAvailable) counted] := by
  have haccepts : portAccepts s.env s.env.writeAvailable = s.env.writeAvailable :=
    portAccepts_of_room _ _ hs.at_call
  have hrest : data.drop s.env.writeAvailable ≠ [] := by
    rw [Ne, List.drop_eq_nil_iff]
    omega
  simp only [sendIteration, Nat.min_eq_right (Nat.le_of_lt hmore), hs.room, haccepts, hrest, if_true,
    if_false]

theorem setTodo_portWrite_push (s : State) (who : Sequencer) (data : List Byte) (k : Nat)
    (counted : Bool) (i : Instr) (rest : List Instr) :
    ((portWrite (s.setTodo who rest) data k counted).push who [i]).setTodo who rest =
        portWrite (s.setTodo who rest) data k counted ∧
      ((portWrite (s.setTodo who rest) data k counted).push who [i]).todo who = i :: rest := by
  cases who <;> exact ⟨rfl, rfl⟩

theorem IdealTransport.setTodo {s : State} (h : IdealTransport s) (who : Sequencer)
    (ops : List Instr) : IdealTransport (s.setTodo who ops) := by
  cases who <;> exact ⟨h.connected, h.room, h.at_call⟩

theorem IdealTransport.portWrite_push {s : State} (h : IdealTransport s) (who : Sequencer)
    (data : List Byte) (k : Nat) (counted : Bool) (ops : List Instr) :
    IdealTransport ((portWrite s data k counted).push who ops) := by
  cases who <;> exact ⟨h.connected, h.room, h.at_call⟩

/-- Send's loop hands over all its data, piece by piece. -/
theorem reaches_sendLoop {s : State} {who : Sequencer} {data : List Byte} {counted : Bool}
    {rest : List Instr} (hs : IdealTransport s) (hne : data ≠ [])
    (htodo : s.todo who = .send who .loop data counted :: rest) :
    Reaches who s (portWrite (s.setTodo who rest) data data.length counted) := by
  induction hn : data.length using Nat.strong_induction_on generalizing s data with
  | _ n ih =>
    subst hn
    have hideal := hs.setTodo who rest
    have hrun : exec (.send who .loop data counted) (s.setTodo who rest) =
        .next (sendIteration (s.setTodo who rest) who data counted) := by
      simp only [exec, execSend, hne, if_false]
    by_cases hfits : data.length ≤ (s.setTodo who rest).env.writeAvailable
    · rw [sendIteration_last who counted hideal hne hfits] at hrun
      exact .head htodo hrun (.refl who _)
    · have hmore := Nat.lt_of_not_le hfits
      have hroom := hideal.room
      rw [sendIteration_part who counted hideal hmore] at hrun
      obtain ⟨hset, htodo'⟩ := setTodo_portWrite_push s who data
        (s.setTodo who rest).env.writeAvailable counted
        (.send who .loop (data.drop (s.setTodo who rest).env.writeAvailable) counted) rest
      have hrest := ih _ (by rw [List.length_drop]; omega) (hideal.portWrite_push who _ _ _ _)
        (by rw [Ne, List.drop_eq_nil_iff]; omega) htodo' rfl
      rw [hset, portWrite_portWrite _ _ _ _ (Nat.le_of_lt hmore)] at hrest
      exact .head htodo hrun hrest

/-- A call of Send hands over all its data. -/
theorem reaches_sendCall {s : State} {who : Sequencer} {data : List Byte} {counted : Bool}
    {rest : List Instr} (hs : IdealTransport s) (hne : data ≠ [])
    (htodo : s.todo who = sendCall who data counted :: rest) :
    Reaches who s (portWrite (s.setTodo who rest) data data.length counted) := by
  have hentry : exec (sendCall who data counted) (s.setTodo who rest) =
      .next ((s.setTodo who rest).push who [.send who .loop data counted]) := by
    have hconnected := (hs.setTodo who rest).connected
    simp only [sendCall, exec, execSend, hconnected, hne, if_true, if_false]
  have hloop : Reaches who ((s.setTodo who rest).push who [.send who .loop data counted])
      (portWrite (s.setTodo who rest) data data.length counted) := by
    cases who
    · exact reaches_sendLoop (s := (s.setTodo .a rest).push .a [_])
        ⟨hs.connected, hs.room, hs.at_call⟩ hne rfl
    · exact reaches_sendLoop (s := (s.setTodo .b rest).push .b [_])
        ⟨hs.connected, hs.room, hs.at_call⟩ hne rfl
  exact .head htodo hentry hloop

/-! ## What has been streamed -/

/-- The bytes on the wire and, after them, those that wait in the transmit buffer. -/
def streamOf (s : State) : List Byte := s.port.wire ++ s.tx.buf.live

/-- The bytes counted and those that wait to be counted. -/
def streamCount (s : State) : Nat := s.session.bytesSentCount + s.tx.buf.live.length

/-- SEQ_A alone gets from `s` to `t`, streams `bytes`, and changes nothing but the transmitter, the encoder
registers, the wire with its counter, and its own work list. -/
structure Streams (bytes : List Byte) (s t : State) : Prop where
  reaches : Reaches .a s t
  same : t = { s with
    session.bytesSentCount := t.session.bytesSentCount
    enc := t.enc
    tx := t.tx
    port.wire := t.port.wire
    seqA.todo := t.seqA.todo
    encoded := t.encoded }
  stream : streamOf t = streamOf s ++ bytes
  count : streamCount t = streamCount s + bytes.length

theorem Streams.refl (s : State) : Streams [] s s :=
  ⟨.refl .a s, rfl, (List.append_nil _).symm, rfl⟩

theorem Streams.trans {bytes more : List Byte} {s u t : State} (h : Streams bytes s u)
    (h' : Streams more u t) : Streams (bytes ++ more) s t := by
  refine ⟨h.reaches.trans h'.reaches, ?_, ?_, ?_⟩
  · have e := h'.same
    rw [h.same] at e
    exact e
  · rw [h'.stream, h.stream, List.append_assoc]
  · rw [h'.count, h.count, List.length_append, Nat.add_assoc]

/-- A first operation that streams nothing by itself. -/
theorem Streams.cons {bytes : List Byte} {s u t : State} {i : Instr} {rest : List Instr}
    (htodo : s.seqA.todo = i :: rest) (hrun : exec i { s with seqA.todo := rest } = .next u)
    (hsame : u = { s with enc := u.enc, seqA.todo := u.seqA.todo })
    (h : Streams bytes u t) : Streams bytes s t := by
  have hfirst : Streams [] s u := by
    refine ⟨.head (who := .a) htodo hrun (.refl .a u), ?_, ?_, ?_⟩
    · rw [hsame]
    · rw [hsame]
      exact (List.append_nil _).symm
    · rw [hsame]
      rfl
  exact hfirst.trans h

/-! ## The transmitter over an ideal transport (R285, R289 to R291) -/

/-- An ideal transport and a transmit buffer that can hold a byte. -/
structure Transmits (s : State) : Prop where
  ideal : IdealTransport s
  capacity : 1 ≤ s.params.txbufCapacity

/-- Both depend on the parameters and the inputs only. -/
theorem Transmits.congr {s t : State} (h : Transmits s)
    (e : (t.params, t.env) = (s.params, s.env)) : Transmits t := by
  obtain ⟨⟨hconnected, hroom, hcall⟩, hcapacity⟩ := h
  obtain ⟨hparams, henv⟩ := Prod.mk.inj e
  exact ⟨⟨henv ▸ hconnected, henv ▸ hroom, henv ▸ hcall⟩, hparams ▸ hcapacity⟩

theorem Streams.transmits {bytes : List Byte} {s t : State} (h : Streams bytes s t)
    (hs : Transmits s) : Transmits t := hs.congr (by rw [h.same])

/-- TXFLUSH hands the transmit buffer over and empties it (R289). -/
theorem streams_txflush {s : State} {rest : List Instr} (hs : Transmits s)
    (htodo : s.seqA.todo = .txflush .start :: rest) :
    ∃ t, Streams [] s t ∧ t.enc = s.enc ∧ t.seqA.todo = rest ∧ t.tx.buf.live = [] := by
  by_cases hempty : s.tx.buf.live = []
  · refine ⟨{ s with seqA.todo := rest }, .cons htodo ?_ rfl (.refl _), rfl, rfl, hempty⟩
    simp only [exec, execTxflush, hempty, if_true]
  · have hcall : exec (.txflush .start) (s.setTodo .a rest) =
        .next ((s.setTodo .a rest).pushA [sendCall .a s.tx.buf.live true, .txflush .done]) := by
      simp only [exec, execTxflush, State.setTodo, hempty, if_false]
    have hsend : Reaches .a ((s.setTodo .a rest).pushA [sendCall .a s.tx.buf.live true, .txflush .done])
        (portWrite (s.setTodo .a (.txflush .done :: rest)) s.tx.buf.live s.tx.buf.live.length true) :=
      reaches_sendCall (s := (s.setTodo .a rest).pushA _)
        ⟨hs.ideal.connected, hs.ideal.room, hs.ideal.at_call⟩ hempty rfl
    refine ⟨{ portWrite (s.setTodo .a rest) s.tx.buf.live s.tx.buf.live.length true with
      tx.buf := s.tx.buf.clear }, ⟨?reaches, rfl, ?stream, rfl⟩, rfl, rfl, rfl⟩
    case reaches =>
      exact .head (who := .a) htodo hcall (hsend.trans (.head (who := .a) rfl rfl (.refl .a _)))
    case stream =>
      simp only [streamOf, portWrite, State.setTodo, ByteBuf.clear_live, List.take_length]

/-- With room in the transmit buffer an operation that emits a byte appends it there (R288). -/
theorem streams_emit_of_room {s : State} {i : Instr} {b : Byte} {rest : List Instr}
    (hroom : s.tx.buf.live.length ≠ s.params.txbufCapacity) (hb : 0x30 ≤ b.toNat)
    (hemits : ∀ u, exec i u = emitByte u b) (htodo : s.seqA.todo = i :: rest) :
    ∃ t, Streams [b] s t ∧ t.enc = s.enc ∧ t.seqA.todo = rest := by
  have hrun := (hemits { s with seqA.todo := rest }).trans (emitByte_of_room hb hroom)
  refine ⟨_, ⟨.head (who := .a) htodo hrun (.refl .a _), rfl, ?stream, ?count⟩, rfl, rfl⟩
  case stream => exact (List.append_assoc ..).symm
  case count =>
    simp only [streamCount, List.length_append]
    omega

/-- An operation that emits a byte streams it, after a flush where the buffer is full (R288). -/
theorem streams_emit {s : State} {i : Instr} {b : Byte} {rest : List Instr} (hs : Transmits s)
    (hb : 0x30 ≤ b.toNat) (hemits : ∀ u, exec i u = emitByte u b) (htodo : s.seqA.todo = i :: rest) :
    ∃ t, Streams [b] s t ∧ t.enc = s.enc ∧ t.seqA.todo = rest := by
  by_cases hfull : s.tx.buf.live.length = s.params.txbufCapacity
  · have hrun := (hemits { s with seqA.todo := rest }).trans (emitByte_of_full hb hfull)
    obtain ⟨u, hflush, henc, htodo', hempty⟩ :=
      streams_txflush (s := s.setTodo .a (.txflush .start :: .emit b :: rest)) (hs.congr rfl) rfl
    have hcapacity := (hflush.transmits (hs.congr rfl)).capacity
    obtain ⟨t, hemit, henc', hrest⟩ := streams_emit_of_room (s := u) (i := .emit b)
      (by rw [hempty, List.length_nil]; omega) hb (fun _ => rfl) htodo'
    exact ⟨t, .cons htodo hrun rfl (hflush.trans hemit), henc'.trans henc, hrest⟩
  · exact streams_emit_of_room hfull hb hemits htodo

/-- THRESHOLD_FLUSH streams nothing by itself (R290). -/
theorem streams_thresholdFlush {s : State} {rest : List Instr} (hs : Transmits s)
    (htodo : s.seqA.todo = .thresholdFlush :: rest) :
    ∃ t, Streams [] s t ∧ t.enc = s.enc ∧ t.seqA.todo = rest := by
  by_cases hthresh : s.params.txFlushThresh ≤ s.tx.buf.live.length
  · have hrun : exec .thresholdFlush { s with seqA.todo := rest } =
        .next { s with seqA.todo := .txflush .start :: rest } := by
      simp only [exec, execThresholdFlush, hthresh, if_true]
      rfl
    obtain ⟨t, hflush, henc, hrest, -⟩ :=
      streams_txflush (s := s.setTodo .a (.txflush .start :: rest)) (hs.congr rfl) rfl
    exact ⟨t, .cons htodo hrun rfl hflush, henc, hrest⟩
  · have hrun : exec .thresholdFlush { s with seqA.todo := rest } =
        .next { s with seqA.todo := rest } := by
      simp only [exec, execThresholdFlush, hthresh, if_false]
    exact ⟨_, .cons htodo hrun rfl (.refl _), rfl, rfl⟩

/-! ## The output operations of ENC_NIBBLE (R233 to R237) -/

/-- The output operations that ENC_NIBBLE queues. -/
def isNibbleOp : Instr → Bool
  | .outTagged _ _ | .outNrun _ | .thresholdFlush => true
  | _ => false

/-- A list of them, no byte of which is reserved. -/
structure NibbleOps (ops : List Instr) : Prop where
  kinds : ∀ i ∈ ops, isNibbleOp i = true
  inBand : InBand ops

theorem NibbleOps.head_tail {i : Instr} {ops : List Instr} (h : NibbleOps (i :: ops)) :
    isNibbleOp i = true ∧ InBand [i] ∧ NibbleOps ops := by
  obtain ⟨hkinds, hband⟩ := h
  rw [List.forall_mem_cons] at hkinds
  rw [← List.singleton_append, InBand, outBytes_append, List.forall_mem_append] at hband
  exact ⟨hkinds.1, hband.1, hkinds.2, hband.2⟩

theorem streams_nibbleOp {s : State} {i : Instr} {rest : List Instr} (hs : Transmits s)
    (hi : isNibbleOp i = true) (hband : InBand [i]) (htodo : s.seqA.todo = i :: rest) :
    ∃ t, Streams (outBytes [i]) s t ∧ t.enc = s.enc ∧ t.seqA.todo = rest := by
  cases i with
  | outTagged run value =>
    exact streams_emit hs (hband _ (List.mem_singleton_self _)) (fun _ => rfl) htodo
  | outNrun n => exact streams_emit hs (hband _ (List.mem_singleton_self _)) (fun _ => rfl) htodo
  | thresholdFlush => exact streams_thresholdFlush hs htodo
  | _ => cases hi

/-- SEQ_A runs the operations that an encoder part queued and streams their bytes. -/
theorem streams_nibbleOps {s : State} {ops rest : List Instr} (hs : Transmits s) (hops : NibbleOps ops)
    (htodo : s.seqA.todo = ops ++ rest) :
    ∃ t, Streams (outBytes ops) s t ∧ t.enc = s.enc ∧ t.seqA.todo = rest := by
  induction ops generalizing s with
  | nil => exact ⟨s, .refl s, rfl, htodo⟩
  | cons i ops ih =>
    obtain ⟨hi, hband, hrest⟩ := hops.head_tail
    obtain ⟨u, hfirst, henc, htodo'⟩ := streams_nibbleOp hs hi hband htodo
    obtain ⟨t, hlast, henc', htodo''⟩ := ih (hfirst.transmits hs) hrest htodo'
    rw [← List.singleton_append, outBytes_append]
    exact ⟨t, hfirst.trans hlast, henc'.trans henc, htodo''⟩

theorem flushLong_kinds (run : Word) : ∀ i ∈ (flushLong run).1, isNibbleOp i = true := by
  rw [flushLong, List.forall_mem_append]
  refine ⟨fun i hi => ?_, ?_⟩
  · rw [List.eq_of_mem_replicate hi]
    rfl
  · split <;> simp [isNibbleOp]

theorem nibStep_kinds (e : Enc) (v : Nibble) : ∀ i ∈ (nibStep e v).1, isNibbleOp i = true := by
  unfold nibStep
  split
  · simp
  · rw [List.forall_mem_append]
    exact ⟨flushLong_kinds _, by simp [isNibbleOp]⟩

theorem nibSteps_kinds (e : Enc) (vs : List Nibble) :
    ∀ i ∈ (nibSteps e vs).1, isNibbleOp i = true := by
  induction vs generalizing e with
  | nil => simp [nibSteps]
  | cons v vs ih => exact List.forall_mem_append.2 ⟨nibStep_kinds e v, ih _⟩

theorem nibbleOps_nibSeed (e : Enc) (w : Word) : NibbleOps (nibSeed e w).1 := by
  refine ⟨?_, inBand_nibSeed e w⟩
  rw [nibSeed, List.forall_mem_map]
  exact fun _ _ => rfl

theorem nibbleOps_nibWord (e : Enc) (w : Word) : NibbleOps (nibWord e w).1 := by
  refine ⟨?_, inBand_nibWord e w⟩
  unfold nibWord
  split
  · simp
  · exact nibSteps_kinds _ _

theorem nibbleOps_nibEnd (e : Enc) : NibbleOps (nibEnd e).1 := by
  refine ⟨List.forall_mem_append.2 ⟨flushLong_kinds _, ?_⟩, inBand_nibEnd e⟩
  split <;> simp [isNibbleOp]

/-! ## ENC_NIBBLE over a half (R232 to R238) -/

/-- A part of ENC_NIBBLE queues its operations before what follows; SEQ_A runs them. -/
theorem streams_encodePart {s : State} {i : Instr} {r : List Instr × Enc} {next rest : List Instr}
    (hs : Transmits s) (hops : NibbleOps r.1) (htodo : s.seqA.todo = i :: rest)
    (hrun : exec i { s with seqA.todo := rest } =
      .next (encodePart { s with seqA.todo := rest } r next)) :
    ∃ t, Streams (outBytes r.1) s t ∧ t.enc = r.2 ∧ t.seqA.todo = next ++ rest := by
  obtain ⟨t, hlast, henc, hrest⟩ :=
    streams_nibbleOps (s := encodePart { s with seqA.todo := rest } r next) (hs.congr rfl) hops
      (List.append_assoc r.1 next rest)
  exact ⟨t, .cons htodo hrun rfl hlast, henc, hrest⟩

theorem HalfHolds.of_streams {bytes : List Byte} {s t : State} {h : Half} {ws : List Word}
    (hs : HalfHolds s h ws) (hst : Streams bytes s t) : HalfHolds t h ws := by
  rw [hst.same]
  exact ⟨hs.size, hs.words⟩

/-- Before the seed the first word is read and seeds the registers (R233). -/
theorem encNibble_start_seeds {s : State} {h : Half} {w : Word} {ws : List Word}
    (hs : HalfHolds s h (w :: ws)) (hseed : s.enc.seeded = false) :
    exec (.encNibble .start h) s =
      .next (encodePart s (nibSeed s.enc w) [.encNibble (.index 1) h]) := by
  have hread : memRead s (s.session.digOff h).toNat 4 = .ok w := hs.words 0 (Nat.zero_lt_succ _)
  simp only [exec, execEncNibble, hseed, hread, withValue_ok, Bool.false_eq_true, if_false]

/-- After it the loop starts at the first word. -/
theorem encNibble_start_seeded {s : State} (h : Half) (hseed : s.enc.seeded = true) :
    exec (.encNibble .start h) s = .next (s.pushA [.encNibble (.index 0) h]) := by
  simp only [exec, execEncNibble, hseed, if_true]

/-- The loop reads the word at its index and encodes it (R234, R235). -/
theorem encNibble_index {s : State} {h : Half} {ws : List Word} {k : Nat} (hs : HalfHolds s h ws)
    (hk : k < ws.length) :
    exec (.encNibble (.index k) h) s =
      .next (encodePart s (nibWord s.enc ws[k]) [.encNibble (.index (k + 1)) h]) := by
  have hsize := hs.size
  have hlt : k < s.session.samplesPerHalf.toNat / 8 := by omega
  simp only [exec, execEncNibble, hlt, hs.words k hk, withValue_ok, if_true]

theorem encNibble_past {s : State} {h : Half} {ws : List Word} {k : Nat} (hs : HalfHolds s h ws)
    (hk : ws.length ≤ k) :
    exec (.encNibble (.index k) h) s = .next (s.pushA [.encNibble .finish h]) := by
  have hsize := hs.size
  have hge : ¬ k < s.session.samplesPerHalf.toNat / 8 := by omega
  simp only [exec, execEncNibble, hge, if_false]

/-- The loop from an index on encodes the words from there on (R232). -/
theorem streams_nibWords {s : State} {h : Half} {ws : List Word} {k : Nat} {rest : List Instr}
    (hs : Transmits s) (hholds : HalfHolds s h ws)
    (htodo : s.seqA.todo = .encNibble (.index k) h :: rest) :
    ∃ t, Streams (outBytes (nibWords s.enc (ws.drop k)).1) s t ∧
      t.enc = (nibWords s.enc (ws.drop k)).2 ∧ t.seqA.todo = .encNibble .finish h :: rest := by
  induction hn : ws.length - k generalizing s k with
  | zero =>
    have hk : ws.length ≤ k := by omega
    rw [List.drop_eq_nil_of_le hk]
    exact ⟨_, .cons htodo (encNibble_past (s := { s with seqA.todo := rest })
      ⟨hholds.size, hholds.words⟩ hk) rfl (.refl _), rfl, rfl⟩
  | succ n ih =>
    have hk : k < ws.length := by omega
    obtain ⟨u, hword, henc, htodo'⟩ := streams_encodePart hs (nibbleOps_nibWord s.enc ws[k]) htodo
      (encNibble_index (s := { s with seqA.todo := rest }) ⟨hholds.size, hholds.words⟩ hk)
    obtain ⟨t, hrest, henc', htodo''⟩ :=
      ih (hword.transmits hs) (hholds.of_streams hword) htodo' (by omega)
    rw [henc] at hrest henc'
    rw [List.drop_eq_getElem_cons hk]
    refine ⟨t, ?_, henc', htodo''⟩
    rw [nibWords, outBytes_append]
    exact hword.trans hrest

/-- The seed, once per capture, then the loop (R232, R233). -/
theorem streams_nibBody {s : State} {h : Half} {ws : List Word} {rest : List Instr}
    (hs : Transmits s) (hholds : HalfHolds s h ws) (hne : ws ≠ [])
    (htodo : s.seqA.todo = .encNibble .start h :: rest) :
    ∃ t, Streams (outBytes (nibBody s.enc ws).1) s t ∧
      t.enc = (nibBody s.enc ws).2 ∧ t.seqA.todo = .encNibble .finish h :: rest := by
  obtain ⟨w, ws, rfl⟩ := List.exists_cons_of_ne_nil hne
  cases hseed : s.enc.seeded with
  | true =>
    have hrun := encNibble_start_seeded (s := { s with seqA.todo := rest }) h hseed
    obtain ⟨t, hwords, henc, hrest⟩ :=
      streams_nibWords (s := s.setTodo .a (.encNibble (.index 0) h :: rest)) (hs.congr rfl)
        ⟨hholds.size, hholds.words⟩ rfl
    simp only [nibBody, hseed]
    exact ⟨t, .cons htodo hrun rfl hwords, henc, hrest⟩
  | false =>
    have hrun := encNibble_start_seeds (s := { s with seqA.todo := rest })
      ⟨hholds.size, hholds.words⟩ hseed
    obtain ⟨u, hfirst, henc, htodo'⟩ := streams_encodePart hs (nibbleOps_nibSeed s.enc w) htodo hrun
    obtain ⟨t, hwords, henc', hrest⟩ :=
      streams_nibWords (hfirst.transmits hs) (hholds.of_streams hfirst) htodo'
    rw [henc] at hwords henc'
    simp only [nibBody, hseed, outBytes_append]
    exact ⟨t, hfirst.trans hwords, henc', hrest⟩

/-- A whole half: after the loop the pending run is written out and the buffer flushed (R237, R238). -/
theorem streams_nibHalf {s : State} {h : Half} {ws : List Word} {rest : List Instr}
    (hs : Transmits s) (hholds : HalfHolds s h ws) (hne : ws ≠ [])
    (htodo : s.seqA.todo = .encNibble .start h :: rest) :
    ∃ t, Streams (outBytes (nibHalf s.enc ws).1) s t ∧ t.enc = (nibHalf s.enc ws).2 ∧
      t.seqA.todo = rest ∧ t.tx.buf.live = [] := by
  obtain ⟨u, hbody, henc, htodo'⟩ := streams_nibBody hs hholds hne htodo
  have hu := hbody.transmits hs
  obtain ⟨v, hend, henc', htodo''⟩ :=
    streams_encodePart hu (nibbleOps_nibEnd u.enc) htodo' (next := [.txflush .start]) rfl
  obtain ⟨t, hflush, henc'', hrest, hempty⟩ := streams_txflush (hend.transmits hu) htodo''
  rw [henc] at hend henc'
  have hall := (hbody.trans hend).trans hflush
  rw [List.append_nil, ← outBytes_append] at hall
  exact ⟨t, hall, henc''.trans henc', hrest, hempty⟩

/-- Settles O41: the buffer is empty before and after, so what has been streamed is on the wire. -/
theorem nibbleHalfReachesWire : Obligations.NibbleHalfReachesWire := by
  intro s h ws rest hcapacity hideal hbefore hholds hne htodo
  obtain ⟨t, ⟨⟨n, hn⟩, hsame, hstream, hcount⟩, henc, hrest, hafter⟩ :=
    streams_nibHalf ⟨hideal, hcapacity⟩ hholds hne htodo
  simp only [streamOf, streamCount, hbefore, hafter, List.append_nil, List.length_nil,
    Nat.add_zero] at hstream hcount
  exact ⟨n, t, hn, hrest, hafter, hstream, hcount, henc, by rw [hsame], by rw [hsame]⟩

end Sys2Proof.Machine
end

section
/-! PROOFS. Proofs/NibbleRle.lean: what the run bytes of the two alphabets stand for (spec/43_nibble_rle.md rule
R236, spec/44_byte_rle.md rule R256), and the parts of ENC_NIBBLE (spec/43_nibble_rle.md rules R232 to R237). -/

namespace Sys2Proof.Machine

/-! ## Run bytes (R236, R256) -/

/-- A run byte that is sent only when its count is positive stands for its count. -/
theorem sum_map_optional {f : Byte → Nat} {c : Prop} [Decidable c] {b : Byte} {k : Nat}
    (h : c → f b = k) (h0 : ¬ c → k = 0) : ((if c then [b] else []).map f).sum = k := by
  split
  next hc => simpa using h hc
  next hc => simpa using (h0 hc).symm

theorem length_optional_le {c : Prop} [Decidable c] (b : Byte) :
    (if c then [b] else []).length ≤ 1 := by
  split <;> simp

/-- The longest code comes first, as often as it fits. -/
theorem take_replicate_append (k : Nat) (b : Byte) (more : List Byte) :
    (List.replicate k b ++ more).take k = List.replicate k b :=
  List.take_left' List.length_replicate

/-- What a nibble run byte stands for (R101). -/
def nibbleRunOf (b : Byte) : Nat := (b.toNat - 47) * 8

theorem nibbleRunOf_code {k : Nat} (hk : k ≤ 80) :
    nibbleRunOf (runByte (BitVec.ofNat 7 (k + 47))) = k * 8 := by
  rw [nibbleRunOf, runByte_toNat, BitVec.toNat_ofNat]
  omega

/-- The direct codes stand for 1 to 32 samples (R103). -/
theorem runOf_directCode {k : Nat} (hk : k ≤ 32) : runOf (runByte (BitVec.ofNat 7 (47 + k))) = k := by
  rw [runOf, runByte_toNat, BitVec.toNat_ofNat]
  split <;> omega

/-- The stepped codes stand for 32 samples each; the smallest one is also a direct code for 32. -/
theorem runOf_steppedCode {k : Nat} (hlo : 1 ≤ k) (hhi : k ≤ 49) :
    runOf (runByte (BitVec.ofNat 7 (78 + k))) = k * 32 := by
  rw [runOf, runByte_toNat, BitVec.toNat_ofNat]
  split <;> omega

/-! ## A nibble run (R236) -/

/-- The run bytes and the samples left over add up to the run. -/
theorem flushLong_sum (run : Word) :
    ((outBytes (flushLong run).1).map nibbleRunOf).sum + (flushLong run).2.toNat = run.toNat := by
  have hlong : nibbleRunOf (runByte 127) = 640 := rfl
  have hshort : ((if 8 ≤ run.toNat % 640 then [runByte (BitVec.ofNat 7 (run.toNat % 640 / 8 + 47))]
      else []).map nibbleRunOf).sum = run.toNat % 640 / 8 * 8 :=
    sum_map_optional (fun _ => nibbleRunOf_code (by omega)) (fun _ => by omega)
  rw [outBytes_flushLong, List.map_append, List.sum_append, hshort, List.map_replicate,
    List.sum_replicate, hlong, smul_eq_mul, flushLong_pending]
  omega

theorem flushLong_pending_lt (run : Word) : (flushLong run).2.toNat < 8 := by
  rw [flushLong_pending]
  omega

theorem flushLong_longest_first (run : Word) :
    (outBytes (flushLong run).1).take (run.toNat / 640) = List.replicate (run.toNat / 640) 127 := by
  rw [outBytes_flushLong]
  exact take_replicate_append _ (runByte 127) _

theorem flushLong_length_le (run : Word) :
    (outBytes (flushLong run).1).length ≤ run.toNat / 640 + 1 := by
  rw [outBytes_flushLong, List.length_append, List.length_replicate]
  exact Nat.add_le_add_left (length_optional_le _) _

/-! ## A byte run (R256) -/

/-- The run bytes add up to the run: what the stepped code leaves is the direct code's. -/
theorem runOps_sum (n : Nat) : ((outBytes (runOps n)).map runOf).sum = n := by
  have hcases := directRest_cases (n % 1568)
  have hlong : runOf (runByte 127) = 1568 := rfl
  have hstepped : ((if 32 < n % 1568 then [runByte (BitVec.ofNat 7 (78 + n % 1568 / 32))]
      else []).map runOf).sum = n % 1568 - directRest (n % 1568) := by
    refine sum_map_optional (fun h => ?_) (fun h => by omega)
    rw [runOf_steppedCode (by omega) (by omega)]
    omega
  have hdirect : ((if 0 < directRest (n % 1568)
      then [runByte (BitVec.ofNat 7 (47 + directRest (n % 1568)))] else []).map runOf).sum
        = directRest (n % 1568) :=
    sum_map_optional (fun _ => runOf_directCode (by omega)) (fun h => by omega)
  rw [outBytes_runOps, List.map_append, List.map_append, List.sum_append, List.sum_append, hstepped,
    hdirect, List.map_replicate, List.sum_replicate, hlong, smul_eq_mul]
  omega

theorem runOps_longest_first (n : Nat) :
    (outBytes (runOps n)).take (n / 1568) = List.replicate (n / 1568) 127 := by
  rw [outBytes_runOps, List.append_assoc]
  exact take_replicate_append _ (runByte 127) _

theorem runOps_length_le (n : Nat) : (outBytes (runOps n)).length ≤ n / 1568 + 2 := by
  rw [outBytes_runOps, List.length_append, List.length_append, List.length_replicate]
  exact Nat.add_le_add (b := n / 1568 + 1) (Nat.add_le_add_left (length_optional_le _) _)
    (length_optional_le _)

/-- Settles O34: after the codes 127 the rest of the run takes one code more, or two in the byte alphabet. -/
theorem runBytesStandForTheRun : Obligations.RunBytesStandForTheRun :=
  ⟨fun run => ⟨flushLong_sum run, flushLong_pending_lt run, flushLong_longest_first run,
      flushLong_length_le run⟩,
    fun n => ⟨runOps_sum n, runOps_longest_first n, runOps_length_le n⟩⟩

/-! ## A nibble and a word (R232, R234, R235) -/

theorem nib_getLsbD (w : Word) (j : Nat) {k : Nat} (hk : k < 4) :
    (nib w j).getLsbD k = w.getLsbD (4 * j + k) := by
  simp [nib, hk]

/-- The test of the coarse path, a shift and a mask, compares the eight nibbles. -/
theorem allEq_iff (w : Word) : allEq w = true ↔ ∀ j, j < 8 → nib w j = nib w 0 := by
  constructor
  case mp =>
    intro h j hj
    have hlast : ∀ i, i < 8 → nib w i = nib w 7 := fun i hi => by
      have hmem : nib w i ∈ nibbles w := List.mem_map_of_mem (List.mem_range.2 hi)
      rw [nibbles_of_allEq h] at hmem
      exact List.eq_of_mem_replicate hmem
    rw [hlast j hj, hlast 0 (by decide)]
  case mpr =>
    intro h
    have hmask : ∀ i, i < 32 → (0x0FFFFFFF : Word).getLsbD i = decide (i < 28) := by decide
    have hshift : w >>> 4 = w &&& 0x0FFFFFFF := by
      refine BitVec.eq_of_getLsbD_eq fun i hi => ?_
      rw [BitVec.getLsbD_ushiftRight, BitVec.getLsbD_and, hmask i hi]
      by_cases hlow : i < 28
      case pos =>
        have hnext : nib w (i / 4 + 1) = nib w (i / 4) := by
          rw [h _ (by omega), h (i / 4) (by omega)]
        have hbit := congrArg (fun v : Nibble => v.getLsbD (i % 4)) hnext
        simp only [nib_getLsbD w _ (Nat.mod_lt i (by decide : 0 < 4))] at hbit
        rw [show 4 * (i / 4 + 1) + i % 4 = 4 + i by omega, Nat.div_add_mod] at hbit
        rw [hbit, decide_eq_true hlow, Bool.and_true]
      case neg =>
        rw [decide_eq_false hlow, Bool.and_false]
        exact BitVec.getLsbD_of_ge w _ (by omega)
    simpa [allEq] using hshift

/-- A nibble equal to the one before it is counted (R235). -/
theorem nibStep_of_eq {e : Enc} {v : Nibble} (h : v = e.nibLast) :
    nibStep e v = ([], { e with runCnt := e.runCnt + 1 }) := if_pos h

/-- Any other writes out the pending run, the rest of it in its own tagged byte (R235). -/
theorem nibStep_of_ne {e : Enc} {v : Nibble} (h : v ≠ e.nibLast) :
    nibStep e v = ((flushLong e.runCnt).1
        ++ [.outTagged ((flushLong e.runCnt).2.setWidth 3) v, .thresholdFlush],
      { e with runCnt := 0, nibLast := v }) := if_neg h

/-- The coarse path counts the whole word (R234). -/
theorem nibWord_coarse {e : Enc} {w : Word} (h : w = e.wordLast ∧ ∀ j, j < 8 → nib w j = nib w 0) :
    nibWord e w = ([], { e with runCnt := e.runCnt + 8 }) := by
  rw [← allEq_iff] at h
  exact if_pos h

/-- The fine path takes the nibbles in order (R235). -/
theorem nibWord_fine {e : Enc} {w : Word}
    (h : ¬ (w = e.wordLast ∧ ∀ j, j < 8 → nib w j = nib w 0)) :
    nibWord e w = ((nibSteps e (nibbles w)).1, { (nibSteps e (nibbles w)).2 with wordLast := w }) := by
  rw [← allEq_iff] at h
  exact if_neg h

/-! ## The parts of ENC_NIBBLE (R232 to R237) -/

/-- What a part of an encoder writes: its registers, and its operations before what follows. -/
theorem encodePart_eq (s : State) (r : List Instr × Enc) (next : List Instr) :
    encodePart s r next = { s with enc := r.2, seqA.todo := r.1 ++ (next ++ s.seqA.todo) } := by
  rw [← List.append_assoc]
  rfl

theorem encNibble_start_of_read {s : State} {h : Half} {w : Word} (hseed : s.enc.seeded = false)
    (hread : memRead s (s.session.digOff h).toNat 4 = .ok w) :
    exec (.encNibble .start h) s =
      .next (encodePart s (nibSeed s.enc w) [.encNibble (.index 1) h]) := by
  simp only [exec, execEncNibble, hseed, hread, withValue_ok, Bool.false_eq_true, if_false]

theorem encNibble_index_of_read {s : State} {h : Half} {i : Nat} {w : Word}
    (hi : i < s.session.samplesPerHalf.toNat / 8)
    (hread : memRead s ((s.session.digOff h).toNat + 4 * i) 4 = .ok w) :
    exec (.encNibble (.index i) h) s =
      .next (encodePart s (nibWord s.enc w) [.encNibble (.index (i + 1)) h]) := by
  simp only [exec, execEncNibble, hi, hread, withValue_ok, if_true]

theorem encNibble_index_past {s : State} {h : Half} {i : Nat}
    (hi : s.session.samplesPerHalf.toNat / 8 ≤ i) :
    exec (.encNibble (.index i) h) s = .next (s.pushA [.encNibble .finish h]) := by
  simp only [exec, execEncNibble, Nat.not_lt.2 hi, if_false]

theorem encNibble_finish (h : Half) (s : State) :
    exec (.encNibble .finish h) s = .next (encodePart s (nibEnd s.enc) [.txflush .start]) := rfl

/-- Settles O35: each position queues what its part gives; the two paths are told apart by `allEq_iff`. -/
theorem nibbleEncoderParts : Obligations.NibbleEncoderParts := by
  intro h s
  refine ⟨encNibble_start_seeded h, fun w hseed hread => ?seed, fun i w hi hread => ⟨?coarse, ?fine⟩,
    fun i hi => encNibble_index_past hi, ?finish, fun _ _ => ⟨nibStep_of_eq, nibStep_of_ne⟩,
    fun _ => rfl, fun _ _ _ => rfl⟩
  case seed =>
    rw [encNibble_start_of_read hseed hread, encodePart_eq]
    rfl
  case coarse =>
    intro hsame
    rw [encNibble_index_of_read hi hread, nibWord_coarse hsame, encodePart_eq]
    rfl
  case fine =>
    intro hdiffer
    rw [encNibble_index_of_read hi hread, nibWord_fine hdiffer, encodePart_eq]
    rfl
  case finish =>
    rw [encNibble_finish, encodePart_eq]
    rfl

end Sys2Proof.Machine
end

section
/-! PROOFS. Proofs/ByteRle.lean: the parts of ENC_BYTE at the three sample widths (spec/44_byte_rle.md rules R252
to R259). -/

namespace Sys2Proof.Machine

/-! ## A sample (R254, R255) -/

/-- A sample equal to the one before it is counted (R254). -/
theorem byteStep_of_eq {t : Nat} {e : Enc} {v : Word} (h : v = e.valLast) :
    byteStep t e v = ([], { e with runCnt := e.runCnt + 1 }) := if_pos h

/-- Any other writes out the pending run, then itself (R255). -/
theorem byteStep_of_ne {t : Nat} {e : Enc} {v : Word} (h : v ≠ e.valLast) :
    byteStep t e v = (runOps e.runCnt.toNat ++ groupOps t v ++ [.thresholdFlush],
      { e with runCnt := 0, valLast := v }) := if_neg h

/-! ## The positions of ENC_BYTE at any width (R252, R253, R257) -/

theorem encByte_start_seeded {wd : Nat} {self : EncPos → Instr} {s : State} (h : Half)
    (hseed : s.enc.seeded = true) :
    encByte wd self .start h s = .next (s.pushA [self (.index 0)]) := by
  simp only [encByte, hseed, if_true]

theorem encByte_start_of_read {wd : Nat} {self : EncPos → Instr} {h : Half} {s : State} {v : Word}
    (hseed : s.enc.seeded = false) (hread : memRead s (s.session.digOff h).toNat wd = .ok v) :
    encByte wd self .start h s =
      .next (encodePart s (byteSeed (groupCount s) s.enc v) [self (.index 1)]) := by
  simp only [encByte, hseed, hread, withValue_ok, Bool.false_eq_true, if_false]

theorem encByte_index_of_read {wd k : Nat} {self : EncPos → Instr} {h : Half} {s : State} {v : Word}
    (hk : k < s.session.samplesPerHalf.toNat)
    (hread : memRead s ((s.session.digOff h).toNat + k * wd) wd = .ok v) :
    encByte wd self (.index k) h s =
      .next (encodePart s (byteStep (groupCount s) s.enc v) [self (.index (k + 1))]) := by
  simp only [encByte, hk, hread, withValue_ok, if_true]

theorem encByte_index_past {wd k : Nat} {self : EncPos → Instr} {s : State} (h : Half)
    (hk : s.session.samplesPerHalf.toNat ≤ k) :
    encByte wd self (.index k) h s = .next (s.pushA [self .finish]) := by
  simp only [encByte, Nat.not_lt.2 hk, if_false]

theorem encByte_finish (wd : Nat) (self : EncPos → Instr) (h : Half) (s : State) :
    encByte wd self .finish h s = .next (encodePart s (byteEnd s.enc) [.txflush .start]) := rfl

/-- Settles O36: the three rows are one encoder (R259), each of whose positions queues what its part gives. -/
theorem byteEncoderParts : Obligations.ByteEncoderParts := by
  intro wd h s hwd
  simp only [exec_byteEncoder hwd]
  refine ⟨encByte_start_seeded h, fun v hseed hread => ?seed,
    fun k v hk hread => ⟨fun hsame => ?counted, fun hnew => ?written⟩,
    fun k hk => encByte_index_past h hk, ?finish⟩
  case seed =>
    rw [encByte_start_of_read hseed hread, encodePart_eq]
    rfl
  case counted =>
    rw [encByte_index_of_read hk hread, byteStep_of_eq hsame, encodePart_eq]
    rfl
  case written =>
    rw [encByte_index_of_read hk hread, byteStep_of_ne hnew, encodePart_eq]
    simp only [groupCount, List.append_assoc, List.cons_append, List.nil_append]
  case finish =>
    rw [encByte_finish, encodePart_eq]
    rfl

end Sys2Proof.Machine
end

section
/-! PROOFS. Proofs/Transmitter.lean: the flush, and Send one step at a time over any transport and as a whole
over an ideal one (spec/46_transmitter.md rules R285, R289 to R293). -/

namespace Sys2Proof.Machine

/-! ## TXFLUSH and THRESHOLD_FLUSH (R289, R290) -/

theorem execTxflush_start_of_empty {s : State} (h : s.tx.buf.live = []) :
    execTxflush .start s = .next s := if_pos h

theorem execTxflush_start_of_nonempty {s : State} (h : s.tx.buf.live ≠ []) :
    execTxflush .start s = .next (s.pushA [sendCall .a s.tx.buf.live true, .txflush .done]) := if_neg h

theorem execTxflush_done (s : State) :
    execTxflush .done s = .next { s with tx.buf := s.tx.buf.clear } := rfl

theorem execThresholdFlush_of_reached {s : State} (h : s.params.txFlushThresh ≤ s.tx.buf.live.length) :
    execThresholdFlush s = .next (s.pushA [.txflush .start]) := if_pos h

theorem execThresholdFlush_of_below {s : State} (h : s.tx.buf.live.length < s.params.txFlushThresh) :
    execThresholdFlush s = .next s := if_neg (Nat.not_le.2 h)

/-- Settles O44: a case for each test of TXFLUSH and of THRESHOLD_FLUSH. -/
theorem flushSendsWholeBuffer : Obligations.FlushSendsWholeBuffer := fun _ =>
  ⟨execTxflush_start_of_empty, execTxflush_start_of_nonempty, execTxflush_done _,
    execThresholdFlush_of_reached, execThresholdFlush_of_below⟩

/-! ## Send at entry and with nothing left (R291) -/

theorem execSend_nil (who : Sequencer) (st : SendStep) (counted : Bool) (s : State) :
    execSend who st [] counted s = .next s := by
  cases st with
  | entry => exact ite_self _
  | loop => rfl

theorem execSend_entry_of_disconnected {s : State} (who : Sequencer) (data : List Byte)
    (counted : Bool) (h : s.env.connected = false) : execSend who .entry data counted s = .next s :=
  if_neg (by simp [h])

theorem execSend_entry_of_connected {s : State} {data : List Byte} (who : Sequencer) (counted : Bool)
    (h : s.env.connected = true) (hne : data ≠ []) :
    execSend who .entry data counted s = .next (s.push who [.send who .loop data counted]) :=
  (if_pos h).trans (if_neg hne)

theorem execSend_loop {data : List Byte} (who : Sequencer) (counted : Bool) (s : State)
    (hne : data ≠ []) :
    execSend who .loop data counted s = .next (sendIteration s who data counted) := if_neg hne

/-! ## An iteration of Send's loop (R285, R291) -/

/-- With room, the part that the transport accepts is handed over; the loop goes on with what is left. -/
theorem sendIteration_of_room {s : State} {data : List Byte} (who : Sequencer) (counted : Bool)
    (hne : data ≠ []) (hroom : 0 < s.env.writeAvailable) :
    let k := portAccepts s.env (min data.length s.env.writeAvailable)
    sendIteration s who data counted =
      if k = data.length then portWrite s data k counted
      else (portWrite s data k counted).push who [.send who .loop (data.drop k) counted] := by
  intro k
  have hoffered : 0 < min data.length s.env.writeAvailable :=
    Nat.lt_min.2 ⟨List.length_pos_of_ne_nil hne, hroom⟩
  have hk : k ≤ data.length := (portAccepts_le _ _).trans (Nat.min_le_left _ _)
  have hall : data.drop k = [] ↔ k = data.length := List.drop_eq_nil_iff.trans hk.ge_iff_eq
  exact (if_pos hoffered).trans (if_congr hall rfl rfl)

theorem sendIteration_without_room {s : State} (who : Sequencer) (data : List Byte) (counted : Bool)
    (hfull : s.env.writeAvailable = 0) :
    sendIteration s who data counted =
      if s.env.connectedLater = false ∨ sendTimedOut s = true then s
      else s.push who [.send who .loop data counted] := by
  have hoffered : ¬ 0 < min data.length s.env.writeAvailable := by
    rw [hfull, Nat.min_zero]
    exact Nat.lt_irrefl 0
  exact (if_neg hoffered).trans (if_congr (by simp) rfl rfl)

/-- Settles O45: Send at entry, then an iteration with room and one without. -/
theorem sendIterates : Obligations.SendIterates := by
  intro who data counted s timedOut
  refine ⟨execSend_entry_of_disconnected who data counted, execSend_entry_of_connected who counted,
    fun st hnil => ?nothing, fun hne hroom => ?room, fun hne hfull hends => ?dropped,
    fun hne hfull hconnected htime => ?again⟩
  case nothing =>
    rw [hnil]
    exact execSend_nil who st counted s
  case room =>
    refine ⟨portAccepts s.env (min data.length s.env.writeAvailable), portAccepts_le _ _,
      portAccepts_of_room _ _, ?_⟩
    exact (execSend_loop who counted s hne).trans
      (congrArg Host.Outcome.next (sendIteration_of_room who counted hne hroom))
  case dropped =>
    refine (execSend_loop who counted s hne).trans (congrArg Host.Outcome.next ?_)
    exact (sendIteration_without_room who data counted hfull).trans (if_pos hends)
  case again =>
    refine (execSend_loop who counted s hne).trans (congrArg Host.Outcome.next ?_)
    have hnotOver : sendTimedOut s = false := htime
    have hgoes : ¬ (s.env.connectedLater = false ∨ sendTimedOut s = true) := by
      simp [hconnected, hnotOver]
    exact (sendIteration_without_room who data counted hfull).trans (if_neg hgoes)

/-! ## A whole call of Send over an ideal transport (R293) -/

/-- A call with no data ends at its entry and hands over nothing. -/
theorem reaches_sendCall_nil {s : State} {who : Sequencer} {counted : Bool} {rest : List Instr}
    (htodo : s.todo who = sendCall who [] counted :: rest) : Reaches who s (s.setTodo who rest) :=
  .head htodo (execSend_nil who .entry counted _) (.refl who _)

/-- What a write of all the data changes, whichever sequencer's work list is behind it. -/
theorem portWrite_setTodo_all (s : State) (who : Sequencer) (data : List Byte) (counted : Bool)
    (rest : List Instr) :
    portWrite (s.setTodo who rest) data data.length counted = { s.setTodo who rest with
      port.wire := s.port.wire ++ data
      session.bytesSentCount := s.session.bytesSentCount + if counted then data.length else 0
      tx.lastWriteUs := if data = [] then s.tx.lastWriteUs else s.nowUs } := by
  have htime : (if 0 < data.length then s.nowUs else s.tx.lastWriteUs) =
      if data = [] then s.tx.lastWriteUs else s.nowUs :=
    (if_congr List.length_pos_iff rfl rfl).trans (ite_not ..)
  cases who <;> simp only [portWrite, State.setTodo, List.take_length, htime]

/-- A write of no data changes nothing. -/
theorem portWrite_nil (s : State) (counted : Bool) : portWrite s [] 0 counted = s := by
  cases counted <;> simp [portWrite]

/-- Settles O46: `reaches_sendCall`, whose loop is by induction on the length of the data, and the call with
no data, which ends at its entry. -/
theorem idealSendDeliversAll : Obligations.IdealSendDeliversAll := by
  intro s who data counted rest hideal htodo
  have hcall : Reaches who s (portWrite (s.setTodo who rest) data data.length counted) := by
    by_cases hnil : data = []
    · subst hnil
      rw [List.length_nil, portWrite_nil]
      exact reaches_sendCall_nil htodo
    · exact reaches_sendCall hideal hnil htodo
  rw [portWrite_setTodo_all] at hcall
  exact hcall

end Sys2Proof.Machine
end

section
/-! PROOFS. Proofs/Routing.lean: where a received character goes (spec/47_scheduler.md rules R317, R318), and the
loop of SEQ_A (rules R312, R321). -/

namespace Sys2Proof.Machine

/-! ## ROUTE (R317, R318) -/

theorem exec_route_reset (s : State) : exec (.route Config.resetChar) s = exec .softReset s := rfl

/-- While a capture is active a character that is neither RESET_CHAR nor ABORT_CHAR is discarded. -/
theorem exec_route_active {c : Byte} {s : State} (hreset : c ≠ Config.resetChar)
    (hactive : captureActive s = true) :
    exec (.route c) s = if c = s.params.abortChar then exec .abort s else .next s :=
  (if_neg hreset).trans (if_pos hactive)

/-- Settles O14: the two tests of ROUTE, RESET_CHAR before the capture. -/
theorem routingOfCharacters : Obligations.RoutingOfCharacters := fun _ s =>
  ⟨rfl, exec_route_reset s,
    fun hreset hactive habort => (exec_route_active hreset hactive).trans (if_pos habort),
    fun hreset hactive habort => (exec_route_active hreset hactive).trans (if_neg habort),
    exec_route_parser⟩

/-! ## The `case` of an iteration of SEQ_A (R312) -/

theorem iterationOps_pending {s : State} (hctrl : s.ctrlState = .idle) (hpending : armPending s = true) :
    iterationOps s = [.arm .configure] := by
  simp only [iterationOps, hctrl, hpending, if_true]

theorem iterationOps_idle {s : State} (hctrl : s.ctrlState = .idle) (hnone : armPending s = false) :
    iterationOps s = [] := by
  simp only [iterationOps, hctrl, hnone, Bool.false_eq_true, if_false]

theorem iterationOps_armed {s : State} (hctrl : s.ctrlState = .armed)
    (hsending : s.session.sending = true) : iterationOps s = [.arm .start] := by
  simp only [iterationOps, hctrl, hsending, if_true]

theorem iterationOps_capturing {s : State} (hctrl : s.ctrlState = .capturing)
    (hsending : s.session.sending = true) : iterationOps s = [.checkHalf .poll s.curHalf] := by
  simp only [iterationOps, hctrl, hsending, if_true]

/-- With `sending` cleared a capture that is armed or runs is stopped and completed. -/
theorem iterationOps_ended {s : State} (hctrl : s.ctrlState = .armed ∨ s.ctrlState = .capturing)
    (hsending : s.session.sending = false) :
    iterationOps s = [.stop, .windDownNormal .completed] := by
  obtain hctrl | hctrl := hctrl <;>
    simp only [iterationOps, hctrl, hsending, Bool.false_eq_true, if_false]

theorem iterationOps_completed {s : State} (hctrl : s.ctrlState = .completed) :
    iterationOps s = [.windDownNormal .flush] := by
  simp only [iterationOps, hctrl]

theorem iterationOps_aborted {s : State} (hctrl : s.ctrlState = .aborted) :
    iterationOps s = [.stop, .windDownAborted .check] := by
  simp only [iterationOps, hctrl]

theorem takeInputs_aIter (s : State) : (takeInputs s).aIter = s.aIter := by rw [takeInputs_same]

theorem iterationOps_takeInputs (s : State) : iterationOps (takeInputs s) = iterationOps s := by
  rw [takeInputs_same]
  rfl

/-! ## SEQ_A with no work (R312, R321) -/

theorem actionA_counts {s : State} (htodo : s.seqA.todo = []) (htop : s.seqA.pos = .top) :
    actionA s = .done (beginIteration s) := by
  simp only [actionA, htodo, htop]

theorem actionA_calls {s : State} {i : Instr} {rest : List Instr} (htodo : s.seqA.todo = [])
    (hbody : s.seqA.pos = .body) (hops : iterationOps s = i :: rest) :
    actionA s = .run i { s with seqA := ⟨.top, rest⟩ } := by
  simp only [actionA, htodo, hbody, hops]

theorem actionA_passes {s : State} (htodo : s.seqA.todo = []) (hbody : s.seqA.pos = .body)
    (hops : iterationOps s = []) : actionA s = .done { s with seqA := ⟨.top, []⟩ } := by
  simp only [actionA, htodo, hbody, hops]

/-- The wake is due when the count of this iteration is a multiple of the period (R321). -/
theorem beginIteration_eq (s : State) :
    beginIteration s = { s with
      aIter := s.aIter + 1
      seqA := ⟨.body, if (s.aIter + 1) % s.params.wakePeriod = 0 then [.wake .signal] else []⟩ } := by
  simp only [beginIteration, wakeDue, beq_iff_eq]

/-- Settles O52: the count at the top, and past it one lemma for each branch of the `case`. -/
theorem sequencerALoop : Obligations.SequencerALoop := by
  intro s harena hagent htodo u go
  have hstep : step s = runAction (actionA u) := by rw [step_eq harena, nextAction, hagent]
  have htodo_u : u.seqA.todo = [] := by rw [takeInputs_seqA, htodo]
  refine ⟨fun htop => ?top, fun hbody => ?body⟩
  case top =>
    have htop_u : u.seqA.pos = .top := by rw [takeInputs_seqA, htop]
    rw [hstep, actionA_counts htodo_u htop_u, beginIteration_eq, takeInputs_aIter, takeInputs_params]
    rfl
  case body =>
    have hbody_u : u.seqA.pos = .body := by rw [takeInputs_seqA, hbody]
    have calls : ∀ {i rest}, iterationOps s = i :: rest → step s = go i rest := fun hops => by
      rw [hstep, actionA_calls htodo_u hbody_u ((iterationOps_takeInputs s).trans hops)]
      rfl
    refine ⟨fun hctrl hpending => calls (iterationOps_pending hctrl hpending),
      fun hctrl hnone => ?_,
      fun hctrl hsending => calls (iterationOps_armed hctrl hsending),
      fun hctrl hsending => calls (iterationOps_capturing hctrl hsending),
      fun hctrl hsending => calls (iterationOps_ended hctrl hsending),
      fun hctrl => calls (iterationOps_completed hctrl),
      fun hctrl => calls (iterationOps_aborted hctrl)⟩
    rw [hstep, actionA_passes htodo_u hbody_u
      ((iterationOps_takeInputs s).trans (iterationOps_idle hctrl hnone))]
    rfl

end Sys2Proof.Machine
end

section
/-! PROOFS. Proofs/Wake.lean: the wake event is sticky: SEQ_A only sets it, nobody but SEQ_B clears it, and in a
fair run SEQ_B takes it (spec/47_scheduler.md rules R315, R320). -/

namespace Sys2Proof.Machine

/-! ## Outcomes that have a given wake event -/

/-- The next state of an outcome, if there is one, has the wake event `e`. -/
def EventAfter (o : Out) (e : Bool) : Prop := ∀ t, o = .next t → t.wakeEvt = e

@[simp] theorem eventAfter_next {s : State} {e : Bool} : EventAfter (.next s) e ↔ s.wakeEvt = e := by
  simp [EventAfter]

@[simp] theorem eventAfter_fault (f : Fault) (e : Bool) : EventAfter (.fault f) e :=
  fun _ h => by cases h

theorem EventAfter.withValue {α : Type} {r : Except Fault α} {f : α → Out} {e : Bool}
    (h : ∀ v, r = .ok v → EventAfter (f v) e) : EventAfter (withValue r f) e := by
  cases r with
  | ok v => exact h v rfl
  | error => exact eventAfter_fault _ e

theorem EventAfter.ite {c : Prop} [Decidable c] {o o' : Out} {e : Bool} (h : EventAfter o e)
    (h' : EventAfter o' e) : EventAfter (if c then o else o') e := by
  split
  · exact h
  · exact h'

/-! ## The operations of SEQ_A (R32, R320) -/

theorem emitByte_event (s : State) (b : Byte) : EventAfter (emitByte s b) s.wakeEvt := by
  rw [emitByte_eq]
  exact .ite (eventAfter_fault _ _) (.ite (by simp) (by simp))

theorem execEncNibble_event (pos : EncPos) (h : Half) (s : State) :
    EventAfter (execEncNibble pos h s) s.wakeEvt := by
  cases pos with
  | start => exact .ite (by simp) (.withValue fun _ _ => by simp)
  | index => exact .ite (.withValue fun _ _ => by simp) (by simp)
  | finish => simp [execEncNibble]

theorem encByte_event (wd : Nat) (self : EncPos → Instr) (pos : EncPos) (h : Half) (s : State) :
    EventAfter (encByte wd self pos h s) s.wakeEvt := by
  cases pos with
  | start => exact .ite (by simp) (.withValue fun _ _ => by simp)
  | index => exact .ite (.withValue fun _ _ => by simp) (by simp)
  | finish => simp [encByte]

theorem execEncInterleave_event (pos : EncPos) (h : Half) (s : State) :
    EventAfter (execEncInterleave pos h s) s.wakeEvt := by
  cases pos with
  | start => simp [execEncInterleave]
  | index => exact .ite (.withValue fun _ _ => by simp) (by simp)
  | finish => simp [execEncInterleave]

theorem execTxflush_event (st : FlushStep) (s : State) : EventAfter (execTxflush st s) s.wakeEvt := by
  cases st with
  | start => exact .ite (by simp) (by simp)
  | done => simp [execTxflush]

theorem execThresholdFlush_event (s : State) : EventAfter (execThresholdFlush s) s.wakeEvt :=
  .ite (by simp) (by simp)

theorem sendIteration_wakeEvt (s : State) (who : Sequencer) (data : List Byte) (counted : Bool) :
    (sendIteration s who data counted).wakeEvt = s.wakeEvt := by
  obtain ⟨k, -, -, -, ⟨-, h⟩ | ⟨-, h⟩⟩ | ⟨-, -, h⟩ | ⟨-, -, -, h⟩ :=
    sendIteration_cases s who data counted <;> rw [h]
  all_goals cases who <;> simp

theorem execSend_event (who : Sequencer) (st : SendStep) (data : List Byte) (counted : Bool)
    (s : State) : EventAfter (execSend who st data counted s) s.wakeEvt := by
  cases st with
  | entry => exact .ite (.ite (by simp) (by cases who <;> simp)) (by simp)
  | loop => exact .ite (by simp) (eventAfter_next.2 (sendIteration_wakeEvt s who data counted))

theorem execCheckHalf_event (st : CheckStep) (h : Half) (s : State) :
    EventAfter (execCheckHalf st h s) s.wakeEvt := by
  cases st with
  | poll => exact .ite (by simp) (by simp)
  | detach =>
    rw [execCheckHalf, detachHalf_same]
    exact eventAfter_next.2 rfl
  | restore =>
    refine .withValue fun u hu => ?_
    rw [restoreHalf_same hu]
    exact eventAfter_next.2 rfl
  | test =>
    unfold execCheckHalf
    dsimp only
    split <;> simp
  | rechain =>
    rw [execCheckHalf, rechainHalf_same]
    exact eventAfter_next.2 rfl
  | encode | account | target | ready => simp [execCheckHalf]

theorem execWindDownNormal_event (st : NormalStep) (s : State) :
    EventAfter (execWindDownNormal st s) s.wakeEvt := by
  cases st <;> simp [execWindDownNormal]

theorem execWindDownAborted_event (st : AbortedStep) (s : State) :
    EventAfter (execWindDownAborted st s) s.wakeEvt := by
  cases st with
  | check => exact .ite (.ite (by simp) (by simp)) (by simp)
  | mark => simp [execWindDownAborted]

theorem execArm_event (st : ArmStep) (s : State) : EventAfter (execArm st s) s.wakeEvt := by
  cases st with
  | configure =>
    intro t h
    obtain rfl | e := armConfigure_same h
    · rfl
    · rw [e]
      rfl
  | start =>
    rw [execArm, armStart_same]
    exact eventAfter_next.2 rfl

theorem execStop_event (s : State) : EventAfter (execStop s) s.wakeEvt := eventAfter_next.2 rfl

/-! ## WAKE (R320) -/

theorem exec_signal (s : State) : exec (.wake .signal) s = .next { s with wakeEvt := true } := rfl

theorem exec_wait_of_set {s : State} (hevent : s.wakeEvt = true) :
    exec (.wake .wait) s = .next { s with wakeEvt := false } := if_pos hevent

theorem exec_wait_of_unset {s : State} (hevent : s.wakeEvt = false) :
    exec (.wake .wait) s = .next { s with seqB.todo := .wake .wait :: s.seqB.todo } :=
  if_neg (ne_true_of_eq_false hevent)

/-! ## The event while SEQ_B does not move -/

/-- Of the operations on SEQ_A's work list only Wake writes the event. -/
theorem opOfA_event {i : Instr} (hi : opOfA i = true) (hsignal : i ≠ .wake .signal) (s : State) :
    EventAfter (exec i s) s.wakeEvt := by
  cases i with
  | outTagged | outNrun | outGroup | outBrunDirect | outBrunStep | outAnalog | emit =>
    exact emitByte_event s _
  | outMarker | outRecord => exact eventAfter_next.2 rfl
  | encNibble pos h => exact execEncNibble_event pos h s
  | encByte1 pos h => exact encByte_event 1 (fun q => .encByte1 q h) pos h s
  | encByte2 pos h => exact encByte_event 2 (fun q => .encByte2 q h) pos h s
  | encByte4 pos h => exact encByte_event 4 (fun q => .encByte4 q h) pos h s
  | encInterleave pos h => exact execEncInterleave_event pos h s
  | txflush st => exact execTxflush_event st s
  | thresholdFlush => exact execThresholdFlush_event s
  | send who st data counted => exact execSend_event who st data counted s
  | checkHalf st h => exact execCheckHalf_event st h s
  | windDownNormal st => exact execWindDownNormal_event st s
  | windDownAborted st => exact execWindDownAborted_event st s
  | wake st =>
    cases st with
    | signal => exact absurd rfl hsignal
    | wait => cases hi
  | _ => cases hi

/-- What the `case ctrl_state` of an iteration calls leaves the event alone. -/
theorem called_event {s : State} {i : Instr} {rest : List Instr} (hc : Called s i rest) (u : State) :
    EventAfter (exec i u) u.wakeEvt := by
  cases hc with
  | configure => exact execArm_event .configure u
  | start => exact execArm_event .start u
  | stop | abort => exact execStop_event u
  | check => exact execCheckHalf_event .poll _ u
  | flush => exact execWindDownNormal_event .flush u

/-- A step of SEQ_A never clears the event. -/
theorem stepA_event {s t : State} (hs : OwnOps s) (h : StepA s t) (hevent : s.wakeEvt = true) :
    t.wakeEvt = true := by
  obtain ⟨htodo, hrun⟩ | ⟨-, rfl⟩ | ⟨-, hops, hrun⟩ | ⟨-, rfl⟩ := h
  case work i rest =>
    by_cases hsignal : i = .wake .signal
    · subst hsignal
      cases hrun
      rfl
    · have hi : opOfA i = true := hs.a_ops i (by simp [htodo])
      exact (opOfA_event hi hsignal _ t hrun).trans hevent
  case call => exact (called_event (called_of_iterationOps hops) _ t hrun).trans hevent
  case count | pass => exact hevent

/-- SEQ_B waits for the wake event, which is set. -/
structure WokenWait (rest : List Instr) (s : State) : Prop where
  own : OwnOps s
  event : s.wakeEvt = true
  waits : s.seqB.todo = .wake .wait :: rest

theorem WokenWait.enabled {rest : List Instr} {s : State} (h : WokenWait rest s) :
    enabled s .seqB = true := by
  rw [Machine.enabled, h.event, Bool.or_true]

/-- The channels, the peripherals and the host have no part in the wait. -/
theorem WokenWait.of_frameEnv {rest : List Instr} {s t : State} (h : WokenWait rest s)
    (e : FrameEnv s t) : WokenWait rest t := by
  unfold FrameEnv at e
  rw [e]
  exact ⟨⟨h.own.a_ops, h.own.b_ops⟩, h.event, h.waits⟩

/-- No agent but SEQ_B ends the wait or clears the event. -/
theorem WokenWait.of_moves {rest : List Instr} {s t : State} (h : WokenWait rest s) (hm : Moves s t)
    (hagent : s.env.agent ≠ .seqB) : WokenWait rest t := by
  cases hm with
  | seqA agent move =>
    refine ⟨ownOps_of_moves h.own (.seqA agent move), stepA_event h.own move h.event, ?_⟩
    rw [(stepA_frame h.own move).same]
    exact h.waits
  | seqB agent => exact absurd agent hagent
  | dma _ move => exact h.of_frameEnv (by rw [FrameEnv, dmaXferOp_same move])
  | sampler _ next => exact h.of_frameEnv (by rw [FrameEnv, next, samplerDeliver_same])
  | adc _ next => exact h.of_frameEnv (by rw [FrameEnv, next, adcDeliver_same])
  | host _ next => exact h.of_frameEnv (by rw [next]; rfl)

/-! ## Runs (R315) -/

/-- Taking the inputs of a step of the run leaves the wait as it is (R41). -/
theorem WokenWait.under {rest : List Instr} {s : State} (h : WokenWait rest s) (e : Env) :
    WokenWait rest (takeInputs { s with script := [e] }) :=
  ⟨⟨h.own.a_ops, h.own.b_ops⟩, h.event, h.waits⟩

/-- Until SEQ_B moves it waits on, with the event set. -/
theorem WokenWait.persists {inputs : Nat → Env} {run : Nat → State} {rest : List Instr} {n m : Nat}
    (hrun : IsRun inputs run) (h : WokenWait rest (run n)) (hle : n ≤ m)
    (hothers : ∀ k, n ≤ k → k < m → (inputs k).agent ≠ .seqB) : WokenWait rest (run m) := by
  induction m, hle using Nat.le_induction with
  | base => exact h
  | succ k hk ih =>
    have hwait := ih fun j hj hlt => hothers j hj (Nat.lt_succ_of_lt hlt)
    exact (hwait.under (inputs k)).of_moves (moves_of_step (hrun k)) (hothers k hk (Nat.lt_succ_self k))

/-- In a fair run SEQ_B moves: it has an enabled step as long as it has not moved. -/
theorem WokenWait.moves_on {inputs : Nat → Env} {run : Nat → State} {rest : List Instr} {n : Nat}
    (hrun : IsRun inputs run) (hfair : Fair inputs run) (h : WokenWait rest (run n)) :
    ∃ m, n ≤ m ∧ (inputs m).agent = .seqB := by
  obtain ⟨m, hle, hmoves | hstuck⟩ := hfair.agents n .seqB h.enabled
  · exact ⟨m, hle, hmoves⟩
  · by_contra hnever
    have hwait := WokenWait.persists hrun h hle fun k hk _ hagent => hnever ⟨k, hk, hagent⟩
    exact Bool.false_ne_true (hstuck.symm.trans hwait.enabled)

/-- SEQ_B's step from the wait: the wait is over and the event taken. -/
theorem WokenWait.taken {rest : List Instr} {s t : State} (h : WokenWait rest s) (hm : Moves s t)
    (hagent : s.env.agent = .seqB) : t = { s with seqB.todo := rest, wakeEvt := false } := by
  have hexec := exec_wait_of_set (s := { s with seqB.todo := rest }) h.event
  cases hm.stepB hagent with
  | work todo runs =>
    cases h.waits.symm.trans todo
    exact Host.Outcome.next.inj (runs.symm.trans hexec)
  | wait todo | poll todo | none todo => cases h.waits.symm.trans todo

/-- Settles O47: the first move of SEQ_B, which fairness gives, finds it waiting and the event still set. -/
theorem wakeIsSticky : Obligations.WakeIsSticky := by
  refine ⟨fun s => ⟨exec_signal s, exec_wait_of_set, exec_wait_of_unset⟩,
    fun inputs run hrun hfair n rest hown hevent hwaits => ?_⟩
  have hstart : WokenWait rest (run n) := ⟨hown, hevent, hwaits⟩
  have hmoves := hstart.moves_on hrun hfair
  let m := Nat.find hmoves
  obtain ⟨hle, hagent⟩ : n ≤ m ∧ (inputs m).agent = .seqB := Nat.find_spec hmoves
  have hwait : WokenWait rest (run m) := .persists hrun hstart hle
    fun k hk hlt hseqB => Nat.find_min hmoves hlt ⟨hk, hseqB⟩
  have hnext := (hwait.under (inputs m)).taken (moves_of_step (hrun m)) hagent
  exact ⟨m, hle, hagent, hwait.waits, by rw [hnext], by rw [hnext]⟩

end Sys2Proof.Machine
end

section
/-! PROOFS. Proofs/Reset.lean: the state after power-on reset and after the soft reset
(spec/70_reset_and_hazards.md rules R360, R362, R363). -/

namespace Sys2Proof.Machine

/-! ## Power-on reset (R42, R360) -/

/-- After reset every channel is idle, chained to itself, and transfers the unit of its side (R42). -/
theorem resetWith_chan (p : Params) (c : Chan) :
    (State.resetWith p).chan c = ⟨false, 0, c, 0, 0, if isDigital c then .word else .byte⟩ := by
  cases c <;> rfl

/-- Without a pending request or a started capture no capture is active; reset leaves neither. -/
theorem resetWith_not_captureActive (p : Params) : captureActive (State.resetWith p) = false := by
  have hrequest : armPending (State.resetWith p) = false := bne_self_eq_false (0 : Word)
  rw [captureActive, hrequest]
  rfl

/-- Settles O49: the channels and the capture by their lemmas, the other registers by the table of R42. -/
theorem powerOnResetValues : Obligations.PowerOnResetValues := by
  intro p
  refine ⟨State.resetWith p, rfl, ?_⟩
  simp only [resetWith_chan, resetWith_not_captureActive]
  simp [State.resetWith, Session.reset, Config.rateDefault, Config.countDefault, ByteBuf.ofCapacity, Enc.reset]

/-! ## The soft reset (R362, R363) -/

theorem exec_reset (s : State) : exec .reset s = .next (softResetOp s) := rfl

theorem exec_softReset (s : State) : exec .softReset s = .next (softResetOp s) := rfl

/-- The soft reset is the power-on reset but for what survives it (R363) and the model's own inputs (log 2). -/
theorem softResetOp_eq_resetWith (s : State) :
    softResetOp s = { State.resetWith s.params with
      session.cmdBuf := s.session.cmdBuf.clear
      tx.buf := s.tx.buf.clear
      arena := s.arena
      port := s.port
      nowUs := s.nowUs
      env := s.env
      script := s.script
      envCount := s.envCount } := rfl

theorem softResetOp_chan (s : State) (c : Chan) :
    (softResetOp s).chan c = (State.resetWith s.params).chan c := rfl

/-- Settles O48: by `softResetOp_eq_resetWith` the values are those of O49, with what survives in place. -/
theorem softResetRestoresResetValues : Obligations.SoftResetRestoresResetValues := by
  intro s
  refine ⟨softResetOp s, exec_reset s, exec_softReset s, ?_⟩
  obtain ⟨_, rfl, hvalues⟩ := powerOnResetValues s.params
  simp only [softResetOp_survives, softResetOp_chan, ByteBuf.clear]
  simp [softResetOp_eq_resetWith, hvalues]

end Sys2Proof.Machine
end
